-- ==== Sys2Proof/Word.lean ====
section
/-! DEFINITION. The word type: the spec's byte (R12). All other widths are fields of bytes. -/

namespace Sys2Proof

/-- A *byte* is an unsigned integer 0 to 255 (R12); bit 0 is its least significant bit. -/
abbrev Byte := BitVec 8

end Sys2Proof
end

