-- ==== Sys2Proof/Syntax.lean ====
section
/-! DEFINITION. The operations of the block: one constructor of `Instr` per row of spec/opcode_table.json,
and the data their operands are made of (extractor kinds, handler items, wire frames). -/

namespace Sys2Proof

/-- Byte order of a field of two or more bytes (R63). -/
inductive Endian where
  | le
  | be
deriving DecidableEq, Repr

/-- The eight parser micro-operations (R100). -/
inductive MicroOp where
  | halt
  | reject
  | dispatch
  | unknown
  | idle
  | discard
  | sync
  | append
deriving DecidableEq, Repr

/-- The ten field-extractor operations as a handler item names them (R105). The six reserved codes are not
here: a handler table that uses one cannot be written (R113). -/
inductive Kind where
  | u8
  | i8
  | u16le
  | u16be
  | i16le
  | i16be
  | u32le
  | u32be
  | i32le
  | i32be
deriving DecidableEq, Repr

/-- A log tag, "a name" (R37, R214). `factoryReset` is the one name the source gives, "factory reset". -/
inductive Tag where
  | factoryReset
  | other (id : Nat)
deriving DecidableEq, Repr

/-- The items that may stand in a per-record list of a TARGETS item, and by themselves (R214, R224). -/
inductive RecItem where
  /-- FIELD(s, off, kind, k): `scale = none` is `raw` (R214, R252). -/
  | field (sink off : Nat) (kind : Kind) (scale : Option Nat)
  /-- BITFIELD(s, off, hi, lo, m) (R214, R227). -/
  | bitfield (sink off hi lo map : Nat)
deriving DecidableEq, Repr

/-- A handler item (R214). -/
inductive Item where
  /-- a FIELD or BITFIELD item on the payload -/
  | single (r : RecItem)
  /-- TARGETS(off, items) -/
  | targets (off : Nat) (items : List RecItem)
  /-- LOG(tag) -/
  | log (tag : Tag)
deriving DecidableEq, Repr

/-- The parts of a frame on the wire, in the order of R80. -/
structure WireFrame where
  hdr : List Byte
  lenField : List Byte
  cmd : List Byte
  payload : List Byte
  ck : List Byte
  tail : List Byte
deriving DecidableEq, Repr

/-- The operations, one constructor per row of spec/opcode_table.json, in the table's order. -/
inductive Instr where
  -- SEL7: selected by the selection word (R102)
  | halt
  | reject
  | dispatch
  | unknown
  | idle
  | discard
  | sync
  | append
  -- KIND4: extractor operations on a byte string `p` at offset `off` (R241)
  | rdU8 (p : List Byte) (off : Nat)
  | rdI8 (p : List Byte) (off : Nat)
  | rdU16le (p : List Byte) (off : Nat)
  | rdU16be (p : List Byte) (off : Nat)
  | rdI16le (p : List Byte) (off : Nat)
  | rdI16be (p : List Byte) (off : Nat)
  | rdU32le (p : List Byte) (off : Nat)
  | rdU32be (p : List Byte) (off : Nat)
  | rdI32le (p : List Byte) (off : Nat)
  | rdI32be (p : List Byte) (off : Nat)
  -- KIND4: reserved codes (R113)
  | reservedKind0001
  | reservedKind1001
  | reservedKind0110
  | reservedKind0111
  | reservedKind1110
  | reservedKind1111
  -- CK2: checksum functions on a span (R181 to R183)
  | ckNone (span : List Byte)
  | ckSum8 (span : List Byte)
  | ckNeg8 (span : List Byte)
  | ckCustom (fn : Nat) (span : List Byte)
  -- HOST3: host-port operations (R108)
  | nop
  | poll
  | reset
  | markFailed
  | xmit (t : Nat) (c : Option Nat) (p : List Byte)
  | xchg (t : Nat) (c : Option Nat) (p : List Byte)
  | reservedHost110
  | reservedHost111
  -- FRAME: byte strings of a format on the wire (R82, R85 to R88)
  | frameGeneral (f : WireFrame)
  | frameP1 (cmd : Byte) (payload : List Byte)
  | frameP2 (hdr : List Byte) (cmd : Nat) (payload tail : List Byte)
  | frameP3 (b0 : Byte) (body : List Byte)
  | layoutP4 (count flags : Byte) (records : List Byte)
  -- ITEM: handler items on a payload `p` (R214)
  | field (p : List Byte) (sink off : Nat) (kind : Kind) (scale : Option Nat)
  | bitfield (p : List Byte) (sink off hi lo map : Nat)
  | targets (p : List Byte) (off : Nat) (items : List RecItem)
  | log (tag : Tag)
  -- CMD: the one command value the source gives (R216)
  | cmdP1FactoryReset
  -- FUNC: the command encoder (R271)
  | encodeFrame (t : Nat) (c : Option Nat) (p : List Byte)
deriving DecidableEq, Repr

end Sys2Proof
end

