-- ==== Sys2Proof/WellFormed.lean ====
section
/-! DEFINITION. When an operation can be written as an operation word: every number fits its field of the side port
(log 5), a frame format row has the lengths its layout gives (R82, R85 to R88), a BITFIELD names a bit range of one
byte (R227). What an operation DOES is not restricted here: the meanings are total on ill-formed operands too. -/

namespace Sys2Proof

/-- A number that fits a 16-bit field of the side port. -/
def fits16 (n : Nat) : Bool := decide (n < 65536)

/-- A byte string whose length fits its 16-bit count. -/
def strOk (p : List Byte) : Bool := fits16 p.length

/-- An optional number that fits. -/
def optOk : Option Nat → Bool
  | none => true
  | some n => fits16 n

/-- A log tag that can be written: code 0 is `factoryReset`, so another tag is its id plus one. -/
def Tag.wf : Tag → Bool
  | .factoryReset => true
  | .other id => fits16 (id + 1)

/-- A FIELD or BITFIELD item that can be written; the bit range is `7 >= hi >= lo >= 0` (R227). -/
def RecItem.wf : RecItem → Bool
  | .field sink off _ scale => fits16 sink && fits16 off && optOk scale
  | .bitfield sink off hi lo map =>
    fits16 sink && fits16 off && decide (hi ≤ 7) && decide (lo ≤ hi) && fits16 map

/-- The general frame's parts have the lengths R8 and R82 allow. -/
def WireFrame.wf (f : WireFrame) : Bool :=
  decide (1 ≤ f.hdr.length) && decide (f.hdr.length ≤ 4) && decide (f.lenField.length ≤ 2) &&
    decide (f.cmd.length ≤ 2) && decide (f.ck.length ≤ 1) && decide (f.tail.length ≤ 4)

/-- The operation can be written as an operation word. -/
def Instr.wf : Instr → Bool
  | .halt => true
  | .reject => true
  | .dispatch => true
  | .unknown => true
  | .idle => true
  | .discard => true
  | .sync => true
  | .append => true
  | .rdU8 p off => strOk p && fits16 off
  | .rdI8 p off => strOk p && fits16 off
  | .rdU16le p off => strOk p && fits16 off
  | .rdU16be p off => strOk p && fits16 off
  | .rdI16le p off => strOk p && fits16 off
  | .rdI16be p off => strOk p && fits16 off
  | .rdU32le p off => strOk p && fits16 off
  | .rdU32be p off => strOk p && fits16 off
  | .rdI32le p off => strOk p && fits16 off
  | .rdI32be p off => strOk p && fits16 off
  | .reservedKind0001 => true
  | .reservedKind1001 => true
  | .reservedKind0110 => true
  | .reservedKind0111 => true
  | .reservedKind1110 => true
  | .reservedKind1111 => true
  | .ckNone span => strOk span
  | .ckSum8 span => strOk span
  | .ckNeg8 span => strOk span
  | .ckCustom fn span => fits16 fn && strOk span
  | .nop => true
  | .poll => true
  | .reset => true
  | .markFailed => true
  | .xmit t c p => fits16 t && optOk c && strOk p
  | .xchg t c p => fits16 t && optOk c && strOk p
  | .reservedHost110 => true
  | .reservedHost111 => true
  | .frameGeneral f => f.wf
  -- the length byte L = n + 2 is one byte (R85)
  | .frameP1 _ payload => decide (payload.length ≤ 253)
  -- the length field L = n + 2 is two bytes (R86)
  | .frameP2 hdr cmd payload tail =>
    hdr.length == 4 && fits16 cmd && decide (payload.length ≤ 65533) && tail.length == 4
  | .frameP3 _ body => body.length == 7
  -- N records of 5 or of 4 bytes (R88)
  | .layoutP4 count _ records =>
    records.length == 5 * count.toNat || records.length == 4 * count.toNat
  | .field p sink off _ scale => strOk p && fits16 sink && fits16 off && optOk scale
  | .bitfield p sink off hi lo map =>
    strOk p && fits16 sink && fits16 off && decide (hi ≤ 7) && decide (lo ≤ hi) && fits16 map
  | .targets p off items => strOk p && fits16 off && fits16 items.length && items.all RecItem.wf
  | .log tag => tag.wf
  | .cmdP1FactoryReset => true
  | .encodeFrame t c p => fits16 t && optOk c && strOk p

end Sys2Proof
end

