-- ==== Sys2Proof/Decode.lean ====
section
/-! DEFINITION. The code tables of 30_encoding and opcode_table.json, the decoder from operation words, and the
encoder after it.

An OPERATION WORD is a byte string: the code byte, a byte that says which table the code is of, then the operands as
the side port carries them. The codes, masks and matches are the spec's (R101, R102, R105, R106, R108, and the wire
layouts R82, R85 to R88); the table byte, the codes of the rows the spec gives no bit pattern, and the layout of the
side port are the model's own (log 5, DESIGN CHOICE). A word of one byte is a bare code (log 5). -/

namespace Sys2Proof

/-! ## The selection table (R102) -/

/-- One row of the selection table: `S AND mask = pat`. -/
structure SelRow where
  op : MicroOp
  mask : BitVec 7
  pat : BitVec 7
deriving DecidableEq, Repr

/-- The selection table of R102, over the word F H R A M V K. -/
def selTable : List SelRow :=
  [ { op := .halt,     mask := 0x40, pat := 0x40 },
    { op := .reject,   mask := 0x52, pat := 0x10 },
    { op := .dispatch, mask := 0x53, pat := 0x13 },
    { op := .unknown,  mask := 0x53, pat := 0x12 },
    { op := .idle,     mask := 0x58, pat := 0x00 },
    { op := .discard,  mask := 0x7C, pat := 0x08 },
    { op := .sync,     mask := 0x7C, pat := 0x0C },
    { op := .append,   mask := 0x78, pat := 0x28 } ]

/-- A word matches a row. -/
def SelRow.hits (r : SelRow) (w : BitVec 7) : Bool := w &&& r.mask == r.pat

/-- The micro-operation a selection word selects (R102); by R103 every word selects exactly one. -/
def decodeSel (w : BitVec 7) : Option MicroOp :=
  (selTable.find? fun r => r.hits w).map SelRow.op

/-- The constructor of a micro-operation. -/
def MicroOp.toInstr : MicroOp → Instr
  | .halt => .halt
  | .reject => .reject
  | .dispatch => .dispatch
  | .unknown => .unknown
  | .idle => .idle
  | .discard => .discard
  | .sync => .sync
  | .append => .append

/-- The 4-bit code of an extractor kind (R105). -/
def Kind.code : Kind → Nat
  | .u8 => 0x0
  | .i8 => 0x8
  | .u16le => 0x2
  | .u16be => 0x3
  | .i16le => 0xA
  | .i16be => 0xB
  | .u32le => 0x4
  | .u32be => 0x5
  | .i32le => 0xC
  | .i32be => 0xD

/-- The extractor kind of a 4-bit code; none for the six reserved codes (R105, R113). -/
def kindOfCode : Nat → Option Kind
  | 0x0 => some .u8
  | 0x8 => some .i8
  | 0x2 => some .u16le
  | 0x3 => some .u16be
  | 0xA => some .i16le
  | 0xB => some .i16be
  | 0x4 => some .u32le
  | 0x5 => some .u32be
  | 0xC => some .i32le
  | 0xD => some .i32be
  | _ => none

/-! ## The side port

Numbers are two bytes, the low one first; byte strings and lists are a count and their elements. Past its last byte
the side port reads as zero. -/

/-- A number of one byte. -/
def get8 : List Byte → Option (Nat × List Byte)
  | [] => some (0, [])
  | b :: r => some (b.toNat, r)

/-- A number of two bytes. -/
def get16 : List Byte → Option (Nat × List Byte)
  | [] => some (0, [])
  | [_] => none
  | lo :: hi :: r => some (lo.toNat + 256 * hi.toNat, r)

/-- A byte string after its count. -/
def getStr (l : List Byte) : Option (List Byte × List Byte) :=
  (get16 l).bind fun (n, r) => if n ≤ r.length then some (r.take n, r.drop n) else none

/-- An optional number: a byte 0 for none, else a byte 1 and the number. -/
def getOpt (l : List Byte) : Option (Option Nat × List Byte) :=
  (get8 l).bind fun (tag, r) =>
    match tag with
    | 0 => some (none, r)
    | 1 => (get16 r).map fun (n, r) => (some n, r)
    | _ => none

/-- A command value or none: a byte 0 and the value, else a byte 1 for none (the case `CMD_W = 0`, R91). -/
def getCmd (l : List Byte) : Option (Option Nat × List Byte) :=
  (get8 l).bind fun (tag, r) =>
    match tag with
    | 0 => (get16 r).map fun (n, r) => (some n, r)
    | 1 => some (none, r)
    | _ => none

/-- An extractor kind by its code of R105. -/
def getKind (l : List Byte) : Option (Kind × List Byte) :=
  (get8 l).bind fun (c, r) => (kindOfCode c).map fun k => (k, r)

/-- A FIELD or BITFIELD item of a per-record list. -/
def getRecItem (l : List Byte) : Option (RecItem × List Byte) :=
  (get8 l).bind fun (tag, l) =>
  (get16 l).bind fun (sink, l) =>
  (get16 l).bind fun (off, l) =>
    match tag with
    | 0 =>
      (getKind l).bind fun (kind, l) =>
      (getOpt l).map fun (scale, l) => (.field sink off kind scale, l)
    | 1 =>
      (get8 l).bind fun (hi, l) =>
      (get8 l).bind fun (lo, l) =>
      (get16 l).map fun (m, l) => (.bitfield sink off hi lo m, l)
    | _ => none

/-- `n` items of a per-record list. -/
def getRecItems : Nat → List Byte → Option (List RecItem × List Byte)
  | 0, l => some ([], l)
  | n + 1, l =>
    (getRecItem l).bind fun (i, l) =>
    (getRecItems n l).map fun (is, l) => (i :: is, l)

/-- A log tag. -/
def getTag (l : List Byte) : Option (Tag × List Byte) :=
  (get16 l).map fun (n, r) =>
    match n with
    | 0 => (.factoryReset, r)
    | k + 1 => (.other k, r)

/-- The operands end the word. -/
def atEnd {α : Type} : Option (α × List Byte) → Option α
  | some (a, []) => some a
  | _ => none

/-- No operands. -/
def bareOperands (i : Instr) (l : List Byte) : Option Instr :=
  if l.isEmpty then some i else none

/-- Operands `p`, `off` of an extractor operation (R241). -/
def rdOperands (mk : List Byte → Nat → Instr) (l : List Byte) : Option Instr :=
  atEnd <|
    (getStr l).bind fun (p, l) =>
    (get16 l).map fun (off, l) => (mk p off, l)

/-- The operand of a checksum function. -/
def spanOperands (mk : List Byte → Instr) (l : List Byte) : Option Instr :=
  atEnd <| (getStr l).map fun (p, l) => (mk p, l)

/-- Operands `t`, `c`, `p` of XMIT, XCHG and ENCODE (R108, R271). -/
def requestOperands (mk : Nat → Option Nat → List Byte → Instr) (l : List Byte) : Option Instr :=
  atEnd <|
    (get16 l).bind fun (t, l) =>
    (getCmd l).bind fun (c, l) =>
    (getStr l).map fun (p, l) => (mk t c p, l)

/-! ## The code tables -/

/-- SEL7: a selection word of 7 bits (R101, R102). -/
def decodeSelCode (c : Nat) (l : List Byte) : Option Instr :=
  if c < 128 then
    (decodeSel (BitVec.ofNat 7 c)).bind fun op => bareOperands op.toInstr l
  else none

/-- KIND4: an extractor code (R105), the reserved ones among them (R113). -/
def decodeKindCode (c : Nat) (l : List Byte) : Option Instr :=
  match c with
  | 0x0 => rdOperands .rdU8 l
  | 0x8 => rdOperands .rdI8 l
  | 0x2 => rdOperands .rdU16le l
  | 0x3 => rdOperands .rdU16be l
  | 0xA => rdOperands .rdI16le l
  | 0xB => rdOperands .rdI16be l
  | 0x4 => rdOperands .rdU32le l
  | 0x5 => rdOperands .rdU32be l
  | 0xC => rdOperands .rdI32le l
  | 0xD => rdOperands .rdI32be l
  | 0x1 => bareOperands .reservedKind0001 l
  | 0x9 => bareOperands .reservedKind1001 l
  | 0x6 => bareOperands .reservedKind0110 l
  | 0x7 => bareOperands .reservedKind0111 l
  | 0xE => bareOperands .reservedKind1110 l
  | 0xF => bareOperands .reservedKind1111 l
  | _ => none

/-- CK2: a checksum code (R106). -/
def decodeCkCode (c : Nat) (l : List Byte) : Option Instr :=
  match c with
  | 0 => spanOperands .ckNone l
  | 1 => spanOperands .ckSum8 l
  | 2 => spanOperands .ckNeg8 l
  | 3 =>
    atEnd <|
      (get16 l).bind fun (fn, l) =>
      (getStr l).map fun (p, l) => (.ckCustom fn p, l)
  | _ => none

/-- HOST3: a host command code (R108). -/
def decodeHostCode (c : Nat) (l : List Byte) : Option Instr :=
  match c with
  | 0 => bareOperands .nop l
  | 1 => bareOperands .poll l
  | 2 => bareOperands .reset l
  | 3 => bareOperands .markFailed l
  | 4 => requestOperands .xmit l
  | 5 => requestOperands .xchg l
  | 6 => bareOperands .reservedHost110 l
  | 7 => bareOperands .reservedHost111 l
  | _ => none

/-! ## The wire layouts (R82, R85 to R88) -/

/-- The 8-bit additive sum a P1 or P3 layout's checksum byte is made of (R85, R87; SUM8 of R181). -/
def byteSum : List Byte → Nat
  | [] => 0
  | b :: r => b.toNat + byteSum r

/-- FRAME_P1 on the wire (R85): `FA FB LL CC PP*n KK FC FD`, `LL = n + 2`, `KK` the sum of `CC PP*n`. -/
def wireP1 (cmd : Byte) (payload : List Byte) : List Byte :=
  [0xFA, 0xFB, BitVec.ofNat 8 (payload.length + 2)] ++ (cmd :: payload) ++
    [BitVec.ofNat 8 (byteSum (cmd :: payload)), 0xFC, 0xFD]

/-- FRAME_P2 on the wire (R86): `H0..H3 L0 L1 C0 C1 PP*n T0..T3`, `L = n + 2`, both little-endian. -/
def wireP2 (hdr : List Byte) (cmd : Nat) (payload tail : List Byte) : List Byte :=
  hdr ++
    [BitVec.ofNat 8 ((payload.length + 2) % 256), BitVec.ofNat 8 ((payload.length + 2) / 256),
      BitVec.ofNat 8 (cmd % 256), BitVec.ofNat 8 (cmd / 256)] ++
    payload ++ tail

/-- FRAME_P3 on the wire (R87): `B0 B1..B7 KK`, `KK = (0x100 - sum of B1..B7) mod 256`. -/
def wireP3 (b0 : Byte) (body : List Byte) : List Byte :=
  (b0 :: body) ++ [BitVec.ofNat 8 (256 - byteSum body % 256)]

/-- LAYOUT_P4 (R88): `NN FF RR*(N*REC_SZ)`. -/
def wireP4 (count flags : Byte) (records : List Byte) : List Byte :=
  count :: flags :: records

/-- FRAME_GENERAL on the wire (R80, R82): the parts in their order. -/
def WireFrame.bytes (f : WireFrame) : List Byte :=
  f.hdr ++ f.lenField ++ f.cmd ++ f.payload ++ f.ck ++ f.tail

/-- Read a P1 frame off its layout: the candidate command and payload, kept only if the bytes are theirs. -/
def readP1 (l : List Byte) : Option Instr :=
  match l with
  | _ :: _ :: _ :: cmd :: rest =>
    let payload := rest.take (rest.length - 3)
    if decide (payload.length ≤ 253) && wireP1 cmd payload == l then some (.frameP1 cmd payload) else none
  | _ => none

/-- Read a P2 frame off its layout. -/
def readP2 (l : List Byte) : Option Instr :=
  match l with
  | h0 :: h1 :: h2 :: h3 :: _ :: _ :: c0 :: c1 :: rest =>
    let cmd := c0.toNat + 256 * c1.toNat
    let payload := rest.take (rest.length - 4)
    let tail := rest.drop (rest.length - 4)
    if decide (payload.length ≤ 65533) && tail.length == 4 && wireP2 [h0, h1, h2, h3] cmd payload tail == l then
      some (.frameP2 [h0, h1, h2, h3] cmd payload tail)
    else none
  | _ => none

/-- Read a P3 frame off its layout. -/
def readP3 (l : List Byte) : Option Instr :=
  match l with
  | b0 :: rest =>
    let body := rest.take 7
    if body.length == 7 && wireP3 b0 body == l then some (.frameP3 b0 body) else none
  | _ => none

/-- Read a P4 region off its layout. -/
def readP4 (l : List Byte) : Option Instr :=
  match l with
  | count :: flags :: records => some (.layoutP4 count flags records)
  | _ => none

/-- Cut `n` bytes. -/
def getN (n : Nat) (l : List Byte) : Option (List Byte × List Byte) :=
  if n ≤ l.length then some (l.take n, l.drop n) else none

/-- Read a general frame: the sizes of header, length field, command, checksum and tail, then the wire bytes; the
payload is what is left. -/
def readGeneral (l : List Byte) : Option Instr :=
  match l with
  | hn :: ln :: cn :: kn :: tn :: l =>
    (getN hn.toNat l).bind fun (hdr, l) =>
    (getN ln.toNat l).bind fun (lenField, l) =>
    (getN cn.toNat l).bind fun (cmd, l) =>
    (getN (l.length - kn.toNat - tn.toNat) l).bind fun (payload, l) =>
    (getN kn.toNat l).bind fun (ck, l) =>
    (getN tn.toNat l).bind fun (tail, l) =>
      bareOperands
        (.frameGeneral { hdr := hdr, lenField := lenField, cmd := cmd, payload := payload, ck := ck, tail := tail }) l
  | _ => none

/-- FRAME: the five formats, numbered in the table's order. -/
def decodeFrameCode (c : Nat) (l : List Byte) : Option Instr :=
  match c with
  | 0 => readGeneral l
  | 1 => readP1 l
  | 2 => readP2 l
  | 3 => readP3 l
  | 4 => readP4 l
  | _ => none

/-- ITEM: the four handler items, numbered in the table's order. -/
def decodeItemCode (c : Nat) (l : List Byte) : Option Instr :=
  match c with
  | 0 =>
    atEnd <|
      (getStr l).bind fun (p, l) =>
      (get16 l).bind fun (sink, l) =>
      (get16 l).bind fun (off, l) =>
      (getKind l).bind fun (kind, l) =>
      (getOpt l).map fun (scale, l) => (.field p sink off kind scale, l)
  | 1 =>
    atEnd <|
      (getStr l).bind fun (p, l) =>
      (get16 l).bind fun (sink, l) =>
      (get16 l).bind fun (off, l) =>
      (get8 l).bind fun (hi, l) =>
      (get8 l).bind fun (lo, l) =>
      (get16 l).map fun (m, l) => (.bitfield p sink off hi lo m, l)
  | 2 =>
    atEnd <|
      (getStr l).bind fun (p, l) =>
      (get16 l).bind fun (off, l) =>
      (get16 l).bind fun (n, l) =>
      (getRecItems n l).map fun (items, l) => (.targets p off items, l)
  | 3 => atEnd <| (getTag l).map fun (tag, l) => (.log tag, l)
  | _ => none

/-- CMD: the one command byte the source gives (R216). -/
def decodeCmdCode (c : Nat) (l : List Byte) : Option Instr :=
  match c with
  | 0x11 => bareOperands .cmdP1FactoryReset l
  | _ => none

/-- FUNC: ENCODE, which has no code of its own. -/
def decodeFuncCode (c : Nat) (l : List Byte) : Option Instr :=
  match c with
  | 0 => requestOperands .encodeFrame l
  | _ => none

/-- A bare code of one byte. The spec's tables overlap on it, so one of them must win: the host command codes, the
command byte 0x11, the match values of the selection table, an extractor code that is left, and then any other
selection word (log 5). -/
def decodeBare (c : Nat) : Option Instr :=
  if c < 8 then decodeHostCode c []
  else if c == 0x11 then decodeCmdCode c []
  else if selTable.any fun r => r.pat == BitVec.ofNat 7 c then decodeSelCode c []
  else if c < 16 then decodeKindCode c []
  else decodeSelCode c []

/-- The operation a word names, before its operands are checked. -/
def parseWord (w : List Byte) : Option Instr :=
  match w with
  | [] => none
  | [c] => decodeBare c.toNat
  | c :: table :: l =>
    match table.toNat with
    | 0 => if l.all (· == 0) then decodeBare c.toNat else none
    | 1 => decodeSelCode c.toNat l
    | 2 => decodeKindCode c.toNat l
    | 3 => decodeCkCode c.toNat l
    | 4 => decodeHostCode c.toNat l
    | 5 => decodeFrameCode c.toNat l
    | 6 => decodeItemCode c.toNat l
    | 7 => decodeCmdCode c.toNat l
    | 8 => decodeFuncCode c.toNat l
    | _ => none

/-- The decoder: total on any bytes; what it answers is well-formed. -/
def decode (w : List Byte) : Option Instr :=
  (parseWord w).filter Instr.wf

/-! ## The encoder -/

/-- A number of one byte on the side port. -/
def put8 (n : Nat) : List Byte := [BitVec.ofNat 8 n]

/-- A number of two bytes on the side port. -/
def put16 (n : Nat) : List Byte := [BitVec.ofNat 8 (n % 256), BitVec.ofNat 8 (n / 256)]

/-- A byte string on the side port. -/
def putStr (p : List Byte) : List Byte := put16 p.length ++ p

/-- An optional number on the side port. -/
def putOpt : Option Nat → List Byte
  | none => put8 0
  | some n => put8 1 ++ put16 n

/-- A command value or none on the side port. -/
def putCmd : Option Nat → List Byte
  | none => put8 1
  | some n => put8 0 ++ put16 n

/-- A per-record item on the side port. -/
def putRecItem : RecItem → List Byte
  | .field sink off kind scale => put8 0 ++ put16 sink ++ put16 off ++ put8 kind.code ++ putOpt scale
  | .bitfield sink off hi lo m => put8 1 ++ put16 sink ++ put16 off ++ put8 hi ++ put8 lo ++ put16 m

/-- A log tag on the side port. -/
def putTag : Tag → List Byte
  | .factoryReset => put16 0
  | .other id => put16 (id + 1)

/-- The head of an operation word: a code of a table. -/
def head (code table : Nat) : List Byte := [BitVec.ofNat 8 code, BitVec.ofNat 8 table]

/-- Operands `p`, `off`. -/
def putRd (p : List Byte) (off : Nat) : List Byte := putStr p ++ put16 off

/-- Operands `t`, `c`, `p`. -/
def putRequest (t : Nat) (c : Option Nat) (p : List Byte) : List Byte := put16 t ++ putCmd c ++ putStr p

/-- The operation word of an operation. A selection word is written as its row's match value (R102). -/
def encode : Instr → List Byte
  | .halt => head 0x40 1
  | .reject => head 0x10 1
  | .dispatch => head 0x13 1
  | .unknown => head 0x12 1
  | .idle => head 0x00 1
  | .discard => head 0x08 1
  | .sync => head 0x0C 1
  | .append => head 0x28 1
  | .rdU8 p off => head 0x0 2 ++ putRd p off
  | .rdI8 p off => head 0x8 2 ++ putRd p off
  | .rdU16le p off => head 0x2 2 ++ putRd p off
  | .rdU16be p off => head 0x3 2 ++ putRd p off
  | .rdI16le p off => head 0xA 2 ++ putRd p off
  | .rdI16be p off => head 0xB 2 ++ putRd p off
  | .rdU32le p off => head 0x4 2 ++ putRd p off
  | .rdU32be p off => head 0x5 2 ++ putRd p off
  | .rdI32le p off => head 0xC 2 ++ putRd p off
  | .rdI32be p off => head 0xD 2 ++ putRd p off
  | .reservedKind0001 => head 0x1 2
  | .reservedKind1001 => head 0x9 2
  | .reservedKind0110 => head 0x6 2
  | .reservedKind0111 => head 0x7 2
  | .reservedKind1110 => head 0xE 2
  | .reservedKind1111 => head 0xF 2
  | .ckNone span => head 0 3 ++ putStr span
  | .ckSum8 span => head 1 3 ++ putStr span
  | .ckNeg8 span => head 2 3 ++ putStr span
  | .ckCustom fn span => head 3 3 ++ put16 fn ++ putStr span
  | .nop => head 0 4
  | .poll => head 1 4
  | .reset => head 2 4
  | .markFailed => head 3 4
  | .xmit t c p => head 4 4 ++ putRequest t c p
  | .xchg t c p => head 5 4 ++ putRequest t c p
  | .reservedHost110 => head 6 4
  | .reservedHost111 => head 7 4
  | .frameGeneral f =>
    head 0 5 ++ put8 f.hdr.length ++ put8 f.lenField.length ++ put8 f.cmd.length ++ put8 f.ck.length ++
      put8 f.tail.length ++ f.bytes
  | .frameP1 cmd payload => head 1 5 ++ wireP1 cmd payload
  | .frameP2 hdr cmd payload tail => head 2 5 ++ wireP2 hdr cmd payload tail
  | .frameP3 b0 body => head 3 5 ++ wireP3 b0 body
  | .layoutP4 count flags records => head 4 5 ++ wireP4 count flags records
  | .field p sink off kind scale =>
    head 0 6 ++ putStr p ++ put16 sink ++ put16 off ++ put8 kind.code ++ putOpt scale
  | .bitfield p sink off hi lo m =>
    head 1 6 ++ putStr p ++ put16 sink ++ put16 off ++ put8 hi ++ put8 lo ++ put16 m
  | .targets p off items =>
    head 2 6 ++ putStr p ++ put16 off ++ put16 items.length ++ items.flatMap putRecItem
  | .log tag => head 3 6 ++ putTag tag
  | .cmdP1FactoryReset => head 0x11 7
  | .encodeFrame t c p => head 0 8 ++ putRequest t c p

/-! ## The host's table words -/

/-- The bytes of a number, `n` of them, the low one first. -/
def wordBytes : Nat → Nat → List Byte
  | 0, _ => []
  | n + 1, w => BitVec.ofNat 8 (w % 256) :: wordBytes n (w / 256)

/-- The operation word that a table row's number stands for. Where the number of bits is the width of one of the
spec's code tables (7, 4, 2 or 3) the code is of that table; otherwise the bytes are taken as they are. -/
def tableWord (nbits w : Nat) : List Byte :=
  match nbits with
  | 7 => head w 1
  | 4 => head w 2
  | 2 => head w 3
  | 3 => head w 4
  | _ => wordBytes (nbits / 8) w

/-- The instruction the decoder reads from a table row's number. -/
def decodeTableWord (nbits w : Nat) : Option Instr :=
  decode (tableWord nbits w)

end Sys2Proof
end

