-- ==== Sys2Proof/Config.lean ====
section
/-! DEFINITION. What an implementation fixes: the profile (R8, R9) as plain data, its admission (R10), the
parameter lists of the shapes P1, P2, P3 (R85 to R87), and the two uninterpreted functions of the spec. -/

namespace Sys2Proof.Config

/-- CK_CUSTOM (R183): "a total function from byte strings to one byte, of which the machine assumes nothing but
that its result depends on its argument alone". The first argument says which function a frame type names.
A FREE VALUE: no body. -/
opaque ckCustom : Nat → List Byte → Byte

/-- SCALE[k] (R252): "an uninterpreted total function of `x` alone". Its result stands for the value in the sink's
own number format, which the spec does not give, as a bare token. A FREE VALUE: no body. -/
opaque scale : Nat → Int → Nat

/-- The checksum function of a frame type (R8 `CK_FN`, R106). -/
inductive CkFn where
  | none
  | sum8
  | neg8
  | custom (fn : Nat)
deriving DecidableEq, Repr

/-- How the total length is found (R8 `LENMODE`, `FIXED_TOTAL`, `LF_W`, `LF_END`, `LF_BASE`). -/
inductive LenMode where
  | fixed (total : Nat)
  | field (width : Nat) (endian : Endian) (base : Nat)
deriving DecidableEq, Repr

/-- A frame type: the parameters of R8. `LF_OFF` is always `HDR_LEN`; `CK_W` follows from `CK_FN`. -/
structure FrameType where
  hdr : List Byte
  tail : List Byte
  lenMode : LenMode
  cmdW : Nat
  cmdEnd : Endian
  ckFn : CkFn
  ckStart : Nat
  handlers : List (Option Nat × List Item)
deriving DecidableEq, Repr

/-- A reading sink: its id, and inside a TARGETS item the target index it is named by (R224). -/
structure Sink where
  id : Nat
  target : Option Nat
deriving DecidableEq, Repr

/-- SINK_PRESENT (R9): one bit per sink, as a default and the sinks that differ from it. -/
structure SinkSet where
  present : Bool
  except : List Sink
deriving DecidableEq, Repr

/-- A profile: the frame types (R8) and the instance-wide parameters (R9). `none` is `INF`. -/
structure Profile where
  types : List FrameType
  bufCap : Option Nat
  maxTargets : Nat
  recSz : Nat
  sinks : SinkSet
  bitmaps : List (List Nat)
  pollBudget : Option Nat
  replyLen : Nat
  xchgTimeout : Nat
deriving DecidableEq, Repr

/-- `LF_W[t]`: 0 when FIXED (R8). -/
def FrameType.lfW (t : FrameType) : Nat :=
  match t.lenMode with
  | .fixed _ => 0
  | .field w _ _ => w

/-- `CK_W[t]`: 0 when `CK_FN = NONE`, else 1 (R8, R10 item f). -/
def FrameType.ckW (t : FrameType) : Nat :=
  match t.ckFn with
  | .none => 0
  | _ => 1

/-- `MIN_TOTAL[t]` (R11): a frame with an empty payload. -/
def FrameType.minTotal (t : FrameType) : Nat :=
  t.hdr.length + t.lfW + t.cmdW + t.ckW + t.tail.length

/-- `MAX_TOTAL[t]` (R11). -/
def FrameType.maxTotal (t : FrameType) : Nat :=
  match t.lenMode with
  | .fixed n => n
  | .field w _ base => base + 2 ^ (8 * w) - 1

/-- The length rule is legal: R10 items (d) and (e). -/
def FrameType.lenModeOk (t : FrameType) : Bool :=
  match t.lenMode with
  | .fixed n => decide (t.minTotal ≤ n)
  | .field w _ base => (w == 1 || w == 2) && decide (t.hdr.length + w + t.tail.length ≤ base)

/-- A FIELD or BITFIELD item a profile may hold: bits `7 >= hi >= lo >= 0` and a table of exactly `2^(hi-lo+1)`
entries (R227). -/
def recItemOk (bitmaps : List (List Nat)) : RecItem → Bool
  | .field _ _ _ _ => true
  | .bitfield _ _ hi lo m =>
    decide (hi ≤ 7) && decide (lo ≤ hi) && ((bitmaps[m]?).map List.length == some (2 ^ (hi - lo + 1)))

/-- An item a profile may hold. -/
def itemOk (bitmaps : List (List Nat)) : Item → Bool
  | .single r => recItemOk bitmaps r
  | .targets _ items => items.all (recItemOk bitmaps)
  | .log _ => true

/-- A key of HANDLERS[t]: `none` when there is no command field, else a value that fits it (R91, R104). -/
def FrameType.keyOk (t : FrameType) : Option Nat → Bool
  | none => t.cmdW == 0
  | some c => t.cmdW != 0 && decide (c < 2 ^ (8 * t.cmdW))

/-- HANDLERS[t] is a finite map over legal keys; with no command field it has the single key `none` (R104, R212). -/
def FrameType.handlersOk (bitmaps : List (List Nat)) (t : FrameType) : Bool :=
  t.handlers.all (fun h => t.keyOk h.1 && h.2.all (itemOk bitmaps)) &&
    decide ((t.handlers.map Prod.fst).Nodup) && (t.cmdW != 0 || t.handlers.length == 1)

/-- One frame type is admitted: R10 items (a), (b), (d), (e), (g), and the bound of R8 on `CMD_W`. -/
def FrameType.ok (bitmaps : List (List Nat)) (t : FrameType) : Bool :=
  decide (1 ≤ t.hdr.length) && decide (t.hdr.length ≤ 4) && decide (t.tail.length ≤ 4) && t.lenModeOk &&
    decide (t.cmdW ≤ 2) && decide (t.ckStart ≤ t.hdr.length + t.lfW + t.cmdW) && t.handlersOk bitmaps

/-- `v ≤ cap`, where `none` is `INF`. -/
def withinCap (cap : Option Nat) (v : Nat) : Bool :=
  match cap with
  | none => true
  | some n => decide (v ≤ n)

/-- A profile is admitted (R10), with `NTYPES >= 1` (R8) and the legal values of R9. -/
def Profile.wf (p : Profile) : Bool :=
  !p.types.isEmpty && p.types.all (FrameType.ok p.bitmaps) &&
    decide ((p.types.map fun t => t.hdr.head?).Nodup) &&
    p.types.all (fun t => withinCap p.bufCap (t.hdr.length + t.lfW)) &&
    (p.recSz == 4 || p.recSz == 5) && (p.pollBudget != some 0) && decide (1 ≤ p.xchgTimeout)

/-- "A model takes a profile together with a proof" of its admission (R10). -/
structure Admitted where
  raw : Profile
  ok : raw.wf = true
deriving DecidableEq, Repr

/-- The default `BUF_CAP` (R9): the largest total any admitted frame can have. -/
def defaultCap (types : List FrameType) : Nat :=
  types.foldl (fun m t => max m t.maxTotal) 0

/-- Shape P1 (R85). -/
def p1Type (handlers : List (Option Nat × List Item)) : FrameType :=
  { hdr := [0xFA, 0xFB], tail := [0xFC, 0xFD], lenMode := .field 1 .le 5, cmdW := 1, cmdEnd := .le,
    ckFn := .sum8, ckStart := 3, handlers := handlers }

/-- Shape P2 (R86): the header and tail bytes are parameters. -/
def p2Type (hdr tail : List Byte) (handlers : List (Option Nat × List Item)) : FrameType :=
  { hdr := hdr, tail := tail, lenMode := .field 2 .le 10, cmdW := 2, cmdEnd := .le,
    ckFn := .none, ckStart := 0, handlers := handlers }

/-- Shape P3 (R87): the header and the command field are parameters. -/
def p3Type (hdr : List Byte) (cmdW : Nat) (cmdEnd : Endian) (handlers : List (Option Nat × List Item)) : FrameType :=
  { hdr := hdr, tail := [], lenMode := .fixed 9, cmdW := cmdW, cmdEnd := cmdEnd,
    ckFn := .neg8, ckStart := 1, handlers := handlers }

/-- The only handler content the source gives (R216): in P1, command 0x11 takes the "factory reset" log path. -/
def p1Handlers : List (Option Nat × List Item) :=
  [(some 0x11, [.log .factoryReset])]

/-- The profile of State.reset: TP1s of 95_test_vectors section 0. DESIGN CHOICE, unsafe (log 1): the spec gives the
profile no reset value. -/
def resetProfile : Admitted :=
  { raw :=
      { types := [p1Type p1Handlers], bufCap := some 260, maxTargets := 3, recSz := 5,
        sinks := { present := true, except := [{ id := 1, target := none }] }, bitmaps := [[0, 1, 2, 3]], pollBudget := none,
        replyLen := 8, xchgTimeout := 3 }
    ok := by decide }

end Sys2Proof.Config
end

