-- ==== Sys2Proof/Machine/State.lean ====
section
/-! DEFINITION. The state of one instance as plain data: what 10_state gives it (R21), the collaborator's queues the
spec speaks of (R39, R51, R56), the output trace (R36), the host command port (R108), the profile (R22, R32), and two
fields of the model's own (`future`, `result`). -/

namespace Sys2Proof.Machine

open Sys2Proof.Config (Sink Admitted resetProfile)

/-- The receive buffer as (address, byte) pairs. Canonical form: the addresses are 0, 1, .., len-1 in this order; a
cell that is not listed holds no value (R23). -/
abbrev Memory := List Host.Cell

/-- The exchange state (R33). -/
inductive Xchg where
  | idle
  | sent
deriving DecidableEq, Repr

/-- The Pending Command Context: "the outbound command code and payload currently awaiting a reply" (R33). -/
structure Pending where
  cmd : Option Nat
  payload : List Byte
deriving DecidableEq, Repr

/-- The causes of exception 3, malformed frame (R190, R293). -/
inductive Cause where
  | noType
  | oversize
  | header
  | length
  | trailer
  | checksum
deriving DecidableEq, Repr

/-- What a `Warn(SHORT(..))` names: the sink of an item, or `targets` for a TARGETS item itself (R224, R228). -/
inductive ShortOf where
  | sink (s : Sink)
  | targets
deriving DecidableEq, Repr

/-- The content of a `Warn` event (R37). -/
inductive Warning where
  | malformed (c : Cause)
  | trunc (count n : Nat)
  | short (w : ShortOf)
  | timeout
deriving DecidableEq, Repr

/-- A published value: an integer (`raw`), a result of SCALE, or an entry of a BITMAP table (R254). -/
inductive Value where
  | num (v : Int)
  | scaled (v : Nat)
  | enum (e : Nat)
deriving DecidableEq, Repr

/-- The events of R37. -/
inductive Event where
  | frame (t : Nat) (cmd : Option Nat) (p : List Byte)
  | publish (s : Sink) (v : Value)
  | logInfo (tag : Tag)
  | logUnknown (t : Nat) (cmd : Option Nat)
  | warn (w : Warning)
  | tx (p : List Byte)
  | flush
deriving DecidableEq, Repr

/-- The value of a pure function run by itself (log 2). -/
inductive Result where
  /-- nothing: no function ran yet, a guard failed (R241), or there is no checksum (R183) -/
  | nothing
  | int (v : Int)
  | byte (b : Byte)
  | bytes (l : List Byte)
deriving DecidableEq, Repr

/-- The state of one instance. -/
structure State where
  /-- the profile: constant, no operation writes it (R22, R32) -/
  profile : Admitted
  /-- the receive buffer and its fill count (R23, R24) -/
  mem : Memory
  /-- the Header-Found Flag; SEEK and ACCUM are names for it (R25, R27) -/
  hf : Bool
  /-- "communication currently degraded" (R29) -/
  warn : Bool
  /-- the instance is marked failed (R30) -/
  failed : Bool
  /-- the exchange state (R33) -/
  xchg : Xchg
  /-- the Pending Command Context (R33) -/
  pending : Option Pending
  /-- the Byte Source's input queue, head first (R51) -/
  q : List Byte
  /-- bytes written to the Byte Source and not yet flushed (R39) -/
  txPending : List Byte
  /-- the output stream (R35) -/
  txOut : List Byte
  /-- the output trace, oldest first (R36) -/
  trace : List Event
  /-- the operation words presented at the host command port, oldest first (R108, log 3) -/
  port : List (List Byte)
  /-- the model's own: the producer's arrivals to come, one batch per arrival point (R20, R51, log 6) -/
  future : List (List Byte)
  /-- the model's own: the value of the last pure function run by itself (log 2) -/
  result : Result
deriving DecidableEq, Repr

/-- The machine never stops with a fault: every error condition of R290 is a next state, "none propagate as
exceptions" (60_exceptions), and a read its guard does not cover "does not happen: there is no trap for it" (R60). -/
inductive Fault where
deriving DecidableEq, Repr

/-- Why an operation has no step. Each is safe: the model stops where the spec gives no step, so nothing false can be
proved of a next state. -/
inductive Refusal where
  /-- exec's arm for an operation with no meaning yet. Safe. -/
  | notModelled (mnemonic : String)
  /-- a micro-operation that the selection word does not select in this state (R102, R103). Raised by the eight
  micro-operations run by themselves. Safe. -/
  | notSelected (op : MicroOp)
  /-- a reserved extractor code (R113). Raised by the six RESERVED_KIND rows. Safe. -/
  | reservedKind (code : Nat)
  /-- a reserved host code (R113, R331). Raised by the two RESERVED_HOST rows. Safe. -/
  | reservedHost (code : Nat)
  /-- outside the preconditions of ENCODE (R271). Raised by XMIT, XCHG and ENCODE. Safe. -/
  | encodeUndefined
  /-- XCHG outside its admission (R281). Raised by XCHG. Safe. -/
  | xchgNotAdmitted
  /-- a BITFIELD no admitted profile may hold: a bit range outside one byte, or a map that is not a table of exactly
  `2^(hi-lo+1)` entries (R227, D7). Raised by BITFIELD and TARGETS run by themselves. Safe. -/
  | itemNotAdmitted
  /-- a word at the command port that is no operation. Raised by step. Safe. -/
  | undecodable
deriving DecidableEq, Repr

/-- The machine right after reset (R38), at the start of a run (log 1, log 2, log 3, log 6, log 8 for the fields the
spec gives no value). -/
def State.reset : State :=
  { profile := resetProfile, mem := [], hf := false, warn := false, failed := false, xchg := .idle,
    pending := none, q := [], txPending := [], txOut := [], trace := [], port := [], future := [],
    result := .nothing }

end Sys2Proof.Machine
end

