-- ==== Sys2Proof/Machine/Ops.lean ====
section
/-! DEFINITION. The named operations over the buffer, the byte streams, the trace and the flags (R14, R50 to R60), and
the error conditions of 60_exceptions with their one shared effect. -/

namespace Sys2Proof.Machine

open Sys2Proof.Config (Profile FrameType)

/-- The profile of the instance (R8, R9). -/
def State.prof (s : State) : Profile := s.profile.raw

/-! ## The receive buffer -/

/-- The canonical memory that holds `l`, from address `a` on. -/
def memoryFrom : Nat → List Byte → Memory
  | _, [] => []
  | a, b :: r => (a, b) :: memoryFrom (a + 1) r

/-- The canonical memory that holds `l`. -/
def memoryOf (l : List Byte) : Memory := memoryFrom 0 l

/-- The bytes of a memory in address order. -/
def memoryBytes (m : Memory) : List Byte := m.map Prod.snd

/-- The canonical form: addresses 0, 1, .., len-1 in this order. No listed cell reads as an unlisted one does, since
an unlisted cell holds no value (R23). -/
def memoryWf (m : Memory) : Bool := m == memoryOf (memoryBytes m)

/-- `buf`: "the byte string `cell[0 .. len-1]`" (R23). -/
def State.buf (s : State) : List Byte := memoryBytes s.mem

/-- `len = |buf|` (R24). -/
def State.len (s : State) : Nat := s.buf.length

/-- The state with `buf = l`. -/
def State.setBuf (s : State) (l : List Byte) : State := { s with mem := memoryOf l }

/-- `buf[a]`: the byte of one cell; none at `len` and above (R23, R60). -/
def State.readByte (s : State) (a : Nat) : Option Byte := s.buf[a]?

/-- `MemRead(off, n)` on a byte string: the guarded read, none where the guard `off + n <= |s|` fails (R14, R60). -/
def memRead (l : List Byte) (off n : Nat) : Option (List Byte) :=
  if off + n ≤ l.length then some ((l.drop off).take n) else none

/-- `MemWrite(APPEND, b)` (R57). -/
def State.memAppend (s : State) (b : Byte) : State := s.setBuf (s.buf ++ [b])

/-- Erase-front: `buf <- drop(k, buf)` (R58). -/
def State.eraseFront (s : State) (k : Nat) : State := s.setBuf (s.buf.drop k)

/-- Clear: `buf <- []` (R59). -/
def State.clear (s : State) : State := s.setBuf []

/-! ## The Byte Source -/

/-- `src.avail()` (R52). -/
def State.avail (s : State) : Bool := !s.q.isEmpty

/-- `src.peek()` (R53); none when `avail` is false. -/
def State.peek (s : State) : Option Byte := s.q.head?

/-- `src.pop()` (R54): the head of the queue and the state without it; none when `avail` is false. -/
def State.pop (s : State) : Option (Byte × State) :=
  match s.q with
  | [] => none
  | b :: r => some (b, { s with q := r })

/-- The producer adds bytes at the tail of the input queue (R20, R51). -/
def State.produce (s : State) (l : List Byte) : State := { s with q := s.q ++ l }

/-- An arrival point: the next batch of the producer's arrivals lands (R51, R66, log 6). -/
def State.arrive (s : State) : State :=
  match s.future with
  | [] => s
  | l :: r => { s with q := s.q ++ l, future := r }

/-! ## The trace, the output stream, the flags -/

/-- `emit E` (R36). -/
def State.emit (s : State) (e : Event) : State := { s with trace := s.trace ++ [e] }

/-- Emit events in order. -/
def State.emitAll (s : State) (es : List Event) : State := { s with trace := s.trace ++ es }

/-- `tx.write(f); emit Tx(f)` (R56, R274). -/
def State.txWrite (s : State) (f : List Byte) : State :=
  { s with txPending := s.txPending ++ f, trace := s.trace ++ [.tx f] }

/-- `tx.flush(); emit Flush` (R56, R71, R274). -/
def State.txFlush (s : State) : State :=
  { s with txPending := [], txOut := s.txOut ++ s.txPending, trace := s.trace ++ [.flush] }

/-- `hf <- v`, that is `phase <- ACCUM` or `phase <- SEEK` (R27). -/
def State.setHf (s : State) (v : Bool) : State := { s with hf := v }

/-- `warn <- v` (R29). -/
def State.setWarn (s : State) (v : Bool) : State := { s with warn := v }

/-- `failed <- v` (R30). -/
def State.setFailed (s : State) (v : Bool) : State := { s with failed := v }

/-- `xchg <- IDLE; pending <- nothing` (R280, R330). -/
def State.endExchange (s : State) : State := { s with xchg := .idle, pending := none }

/-- `pending <- (c, p); xchg <- SENT` (R280). -/
def State.beginExchange (s : State) (c : Option Nat) (p : List Byte) : State :=
  { s with xchg := .sent, pending := some { cmd := c, payload := p } }

/-! ## The error conditions (60_exceptions) -/

/-- The six error conditions (R290). -/
inductive Condition where
  | syncNoise
  | incompleteFrame
  | malformedFrame (c : Cause)
  | unknownCommand (t : Nat) (cmd : Option Nat)
  | exchangeTimeout
  | setupFailure
deriving DecidableEq, Repr

/-- "The source's own numbers (1) to (6) are used as the codes" (R290); stored in no register (D16). -/
def Condition.code : Condition → Nat
  | .syncNoise => 1
  | .incompleteFrame => 2
  | .malformedFrame _ => 3
  | .unknownCommand _ _ => 4
  | .exchangeTimeout => 5
  | .setupFailure => 6

/-- Taking an error condition: the event and the state change of R290. Nothing is saved and control does not move
(R303); there is no return operation (R304). Condition 4's erase and flag writes belong to UNKNOWN itself (R221), its
`raise` is the log event alone. -/
def raise (x : Condition) (s : State) : State :=
  match x with
  -- R291: the byte is popped and lost; no event, no flag
  | .syncNoise => { s with q := s.q.tail }
  -- R292: no effect
  | .incompleteFrame => s
  -- R293, R196
  | .malformedFrame c => (((s.emit (.warn (.malformed c))).clear).setHf false).setWarn true
  -- R294, R221
  | .unknownCommand t c => s.emit (.logUnknown t c)
  -- R295, R280
  | .exchangeTimeout => ((s.emit (.warn .timeout)).setWarn true).endExchange
  -- R296
  | .setupFailure => s.setFailed true

end Sys2Proof.Machine
end

