-- ==== Sys2Proof/Machine/Operands.lean ====
section
/-! DEFINITION. How operands are assembled from bytes: multi-byte integers (R14, R63), the general field table and its
offsets (R82, R84), the length field (R90), the command (R91), the payload (R211), the extractor operations (R241 to
R251) and bit ranges (R12). -/

namespace Sys2Proof.Machine

open Sys2Proof.Config (FrameType LenMode)

/-- `uint_LE(s) = s[0] + 256*s[1] + ..` (R14). -/
def uintLE : List Byte → Nat
  | [] => 0
  | b :: r => b.toNat + 256 * uintLE r

/-- `uint_BE(s) = s[0]*256^(n-1) + ... + s[n-1]` (R14, R63). -/
def uintBE : List Byte → Nat
  | [] => 0
  | b :: r => b.toNat * 256 ^ r.length + uintBE r

/-- The unsigned value of a field in its declared byte order (R63). -/
def uint (e : Endian) (l : List Byte) : Nat :=
  match e with
  | .le => uintLE l
  | .be => uintBE l

/-- `v` as `n` bytes, least significant first. -/
def bytesLE : Nat → Nat → List Byte
  | 0, _ => []
  | n + 1, v => BitVec.ofNat 8 (v % 256) :: bytesLE n (v / 256)

/-- `v` as `n` bytes in a byte order (R271). -/
def bytesOf (e : Endian) (n v : Nat) : List Byte :=
  match e with
  | .le => bytesLE n v
  | .be => (bytesLE n v).reverse

/-- `sext_N(v)` (R14): two's complement. -/
def sext (n v : Nat) : Int :=
  if v < 2 ^ (n - 1) then (v : Int) else (v : Int) - 2 ^ n

/-- `b[hi:lo]`, an unsigned value of `hi - lo + 1` bits (R12, R227). -/
def bitRange (b : Byte) (hi lo : Nat) : Nat := b.toNat / 2 ^ lo % 2 ^ (hi - lo + 1)

/-! ## The field table (R82, R84) -/

/-- `CMD_OFF = HDR_LEN + LF_W`. -/
def cmdOff (t : FrameType) : Nat := t.hdr.length + t.lfW

/-- `PAY_OFF = CMD_OFF + CMD_W`. -/
def payOff (t : FrameType) : Nat := cmdOff t + t.cmdW

/-- `TAIL_OFF = total - TAIL_LEN`. -/
def tailOff (t : FrameType) (total : Nat) : Nat := total - t.tail.length

/-- `CK_OFF = TAIL_OFF - CK_W`, which is also `PAY_END`. -/
def ckOff (t : FrameType) (total : Nat) : Nat := tailOff t total - t.ckW

/-- `PAY_LEN = PAY_END - PAY_OFF`. -/
def payLen (t : FrameType) (total : Nat) : Nat := ckOff t total - payOff t

/-- The length field `L` of a type that has one (R90); none while it is not buffered. -/
def lengthField (t : FrameType) (l : List Byte) : Option Nat :=
  match t.lenMode with
  | .fixed _ => none
  | .field w e _ => (memRead l t.hdr.length w).map (uint e)

/-- The total frame length of type `t` (R83): `FIXED_TOTAL`, or `L + LF_BASE` without wrap-around (R164). -/
def totalOf (t : FrameType) (l : List Byte) : Option Nat :=
  match t.lenMode with
  | .fixed n => some n
  | .field _ _ base => (lengthField t l).map (· + base)

/-- The command of a frame of type `t` (R91): none when `CMD_W = 0`. -/
def cmdOf (t : FrameType) (l : List Byte) : Option Nat :=
  if t.cmdW = 0 then none else (memRead l (cmdOff t) t.cmdW).map (uint t.cmdEnd)

/-- `MemRead(PAY_OFF, PAY_LEN)` (R211); a valid frame's guard holds, and without it there is nothing to read. -/
def payloadOf (t : FrameType) (l : List Byte) (total : Nat) : List Byte :=
  (memRead l (payOff t) (payLen t total)).getD []

/-! ## The ten extractor operations

Each answers none where its guard `off + w <= |p|` fails (R241). -/

/-- RD_U8 (R243). -/
def rdU8 (p : List Byte) (off : Nat) : Option Int := (memRead p off 1).map fun l => (uintLE l : Int)

/-- RD_I8 (R244). -/
def rdI8 (p : List Byte) (off : Nat) : Option Int := (memRead p off 1).map fun l => sext 8 (uintLE l)

/-- RD_U16LE (R245). -/
def rdU16le (p : List Byte) (off : Nat) : Option Int := (memRead p off 2).map fun l => (uintLE l : Int)

/-- RD_U16BE (R246). -/
def rdU16be (p : List Byte) (off : Nat) : Option Int := (memRead p off 2).map fun l => (uintBE l : Int)

/-- RD_I16LE (R247). -/
def rdI16le (p : List Byte) (off : Nat) : Option Int := (memRead p off 2).map fun l => sext 16 (uintLE l)

/-- RD_I16BE (R248). -/
def rdI16be (p : List Byte) (off : Nat) : Option Int := (memRead p off 2).map fun l => sext 16 (uintBE l)

/-- RD_U32LE (R249). -/
def rdU32le (p : List Byte) (off : Nat) : Option Int := (memRead p off 4).map fun l => (uintLE l : Int)

/-- RD_U32BE (R250). -/
def rdU32be (p : List Byte) (off : Nat) : Option Int := (memRead p off 4).map fun l => (uintBE l : Int)

/-- RD_I32LE (R251). -/
def rdI32le (p : List Byte) (off : Nat) : Option Int := (memRead p off 4).map fun l => sext 32 (uintLE l)

/-- RD_I32BE (R251). -/
def rdI32be (p : List Byte) (off : Nat) : Option Int := (memRead p off 4).map fun l => sext 32 (uintBE l)

/-- The extractor operation a FIELD item names (R105). -/
def readKind (k : Kind) (p : List Byte) (off : Nat) : Option Int :=
  match k with
  | .u8 => rdU8 p off
  | .i8 => rdI8 p off
  | .u16le => rdU16le p off
  | .u16be => rdU16be p off
  | .i16le => rdI16le p off
  | .i16be => rdI16be p off
  | .u32le => rdU32le p off
  | .u32be => rdU32be p off
  | .i32le => rdI32le p off
  | .i32be => rdI32be p off

end Sys2Proof.Machine
end

