-- ==== Sys2Proof/Machine/Accumulator.lean ====
section
/-! DEFINITION. The Frame Accumulator's length detector (42_accumulator): pure functions of the profile and a byte
string; `ready` looks at `hf` too. -/

namespace Sys2Proof.Machine

open Sys2Proof.Config (Profile FrameType)

/-- The first type from index `i` on whose header begins with `b`. -/
def findType (b : Byte) : Nat → List FrameType → Option (Nat × FrameType)
  | _, [] => none
  | i, t :: ts => if t.hdr.head? = some b then some (i, t) else findType b (i + 1) ts

/-- `ftype(buf)` (R161): the type, with its index, whose first header byte is `buf[0]`. -/
def ftype (p : Profile) (l : List Byte) : Option (Nat × FrameType) :=
  match l with
  | [] => none
  | b :: _ => findType b 0 p.types

/-- `FIRST` (R141): the byte is a first header byte of the profile. -/
def isFirst (p : Profile) (b : Byte) : Bool := p.types.any fun t => t.hdr.head? = some b

/-- `len_known(buf)` (R162). -/
def lenKnown (p : Profile) (l : List Byte) : Bool :=
  match ftype p l with
  | none => false
  | some (_, t) =>
    match t.lenMode with
    | .fixed _ => true
    | .field w _ _ => decide (t.hdr.length + w ≤ l.length)

/-- `total(buf)` (R163): defined only when `len_known(buf)`. -/
def total (p : Profile) (l : List Byte) : Option Nat :=
  (ftype p l).bind fun (_, t) => totalOf t l

/-- `complete(buf)` (R165). -/
def isComplete (p : Profile) (l : List Byte) : Bool :=
  match total p l with
  | none => false
  | some n => decide (n ≤ l.length)

/-- `total(buf) > BUF_CAP` (R166). -/
def isOversize (p : Profile) (l : List Byte) : Bool :=
  match total p l with
  | none => false
  | some n => !Config.withinCap p.bufCap n

/-- `ready(buf)` with `hf` set (R166). -/
def readyBuf (p : Profile) (l : List Byte) : Bool :=
  decide (1 ≤ l.length) && ((ftype p l).isNone || isOversize p l || isComplete p l)

/-- `ready(buf)`, bit R of the selection word (R166). -/
def State.ready (s : State) : Bool := s.hf && readyBuf s.prof s.buf

end Sys2Proof.Machine
end

