-- ==== Sys2Proof/Machine/Checksum.lean ====
section
/-! DEFINITION. The four checksum functions (R181 to R183). -/

namespace Sys2Proof.Machine

open Sys2Proof.Config (CkFn FrameType)

/-- SUM8 (R181): the sum of the bytes modulo 256. -/
def sum8 (l : List Byte) : Byte := BitVec.ofNat 8 (byteSum l % 256)

/-- NEG8 (R182): `(0x100 - SUM8(s)) mod 256`. -/
def neg8 (l : List Byte) : Byte := BitVec.ofNat 8 ((0x100 - (sum8 l).toNat) % 256)

/-- The checksum byte of a span; none for NONE, "the protocol has no checksum" (R183). -/
def ckValue (f : CkFn) (span : List Byte) : Option Byte :=
  match f with
  | .none => none
  | .sum8 => some (sum8 span)
  | .neg8 => some (neg8 span)
  | .custom n => some (Config.ckCustom n span)

/-- The checksum field of a frame whose bytes up to it are `pre` (R271): covers `CK_START` on (R189). -/
def ckField (t : FrameType) (pre : List Byte) : List Byte := (ckValue t.ckFn (pre.drop t.ckStart)).toList

end Sys2Proof.Machine
end

