-- ==== Sys2Proof/Machine/Validator.lean ====
section
/-! DEFINITION. The Frame Validator's checks (R185 to R188), `reject_cause` (R190) and `valid` (R191). -/

namespace Sys2Proof.Machine

open Sys2Proof.Config (Profile FrameType)

/-- Check 1, header (R185). -/
def checkHeader (t : FrameType) (l : List Byte) : Bool := memRead l 0 t.hdr.length == some t.hdr

/-- Check 1b, minimum length (R186). -/
def checkLength (t : FrameType) (n : Nat) : Bool := decide (t.minTotal ≤ n)

/-- Check 2, trailer (R187). -/
def checkTail (t : FrameType) (l : List Byte) (n : Nat) : Bool :=
  t.tail.isEmpty || memRead l (tailOff t n) t.tail.length == some t.tail

/-- Check 3, checksum (R188): the span is `buf[CK_START .. CK_OFF-1]` (R189). -/
def checkSum (t : FrameType) (l : List Byte) (n : Nat) : Bool :=
  match t.ckFn with
  | .none => true
  | f =>
    match memRead l t.ckStart (ckOff t n - t.ckStart), memRead l (ckOff t n) 1 with
    | some span, some ck => (ckValue f span).toList == ck
    | _, _ => false

/-- The first of the source's checks, with check 1b, that a frame of type `t` and total length `n` fails, in the order
of R190. -/
def frameCause (t : FrameType) (l : List Byte) (n : Nat) : Option Cause :=
  if !checkHeader t l then some .header
  else if !checkLength t n then some .length
  else if !checkTail t l n then some .trailer
  else if !checkSum t l n then some .checksum
  else none

/-- `reject_cause(buf)` (R190); defined when `ready(buf)`. -/
def rejectCause (p : Profile) (l : List Byte) : Option Cause :=
  match ftype p l with
  | none => some .noType
  | some (_, t) =>
    match totalOf t l with
    | none => none
    | some n => if !Config.withinCap p.bufCap n then some .oversize else frameCause t l n

/-- `valid(buf)`, bit V of the selection word (R191). -/
def State.valid (s : State) : Bool := s.ready && (rejectCause s.prof s.buf).isNone

/-- A frame at the front of a byte string, taken apart (R211). -/
structure Front where
  t : Nat
  ty : FrameType
  total : Nat
  cmd : Option Nat
  payload : List Byte
deriving DecidableEq, Repr

/-- The frame of type `t` and total length `n` at the front of `l` (R211). -/
def frontOf (i : Nat) (t : FrameType) (l : List Byte) (n : Nat) : Front :=
  { t := i, ty := t, total := n, cmd := cmdOf t l, payload := payloadOf t l n }

/-- The frame at the front of the buffer; none while its length is not known. -/
def State.front (s : State) : Option Front :=
  (ftype s.prof s.buf).bind fun (i, t) => (totalOf t s.buf).map fun n => frontOf i t s.buf n

end Sys2Proof.Machine
end

