-- ==== Sys2Proof/Machine/Handlers.lean ====
section
/-! DEFINITION. Handlers and their items (R214, R217, R224 to R228), handler selection (R104, R212) and the meanings of
the ITEM and CMD rows. An item writes nothing but the trace (R214), so its effect is a list of events. -/

namespace Sys2Proof.Machine

open Sys2Proof.Config (Profile FrameType Sink recItemOk)

/-- `SINK_PRESENT[s]` (R9). -/
def sinkPresent (p : Profile) (s : Sink) : Bool :=
  if p.sinks.except.contains s then !p.sinks.present else p.sinks.present

/-- Publishing (R217): an event if the sink is present, else nothing. -/
def publish (p : Profile) (s : Sink) (v : Value) : List Event :=
  if sinkPresent p s then [.publish s v] else []

/-- Scaling (R252): `raw` publishes the integer itself. -/
def scaled (k : Option Nat) (x : Int) : Value :=
  match k with
  | none => .num x
  | some k => .scaled (Config.scale k x)

/-- `BITMAP[m][x]` (R227). -/
def bitmapEntry (p : Profile) (m x : Nat) : Option Nat := (p.bitmaps[m]?).bind fun table => table[x]?

/-- FIELD(s, off, kind, k) on the byte string `p` (R214, R217, R228). -/
def fieldEvents (prof : Profile) (p : List Byte) (s : Sink) (off : Nat) (kind : Kind) (k : Option Nat) : List Event :=
  match readKind kind p off with
  | none => [.warn (.short (.sink s))]
  | some x => publish prof s (scaled k x)

/-- BITFIELD(s, off, hi, lo, m) on the byte string `p` (R227, R228). An admitted profile's table always has the
entry. -/
def bitfieldEvents (prof : Profile) (p : List Byte) (s : Sink) (off hi lo m : Nat) : List Event :=
  match p[off]? with
  | none => [.warn (.short (.sink s))]
  | some b =>
    match bitmapEntry prof m (bitRange b hi lo) with
    | none => []
    | some e => publish prof s (.enum e)

/-- A FIELD or BITFIELD item on the byte string `p`; inside TARGETS its sink is indexed by the target (R224). -/
def recItemEvents (prof : Profile) (p : List Byte) (target : Option Nat) (r : RecItem) : List Event :=
  match r with
  | .field sink off kind k => fieldEvents prof p { id := sink, target := target } off kind k
  | .bitfield sink off hi lo m => bitfieldEvents prof p { id := sink, target := target } off hi lo m

/-- The records `i`, `i+1`, .. of a TARGETS region, `n` of them, each run through the per-record items (R224). -/
def recordEvents (prof : Profile) (items : List RecItem) (p : List Byte) (off : Nat) : Nat → Nat → List Event
  | _, 0 => []
  | i, n + 1 =>
    items.flatMap (recItemEvents prof ((p.drop (off + 2 + i * prof.recSz)).take prof.recSz) (some i)) ++
      recordEvents prof items p off (i + 1) n

/-- TARGETS(off, items) on the payload `p` (R224, R225, R226). -/
def targetsEvents (prof : Profile) (p : List Byte) (off : Nat) (items : List RecItem) : List Event :=
  if p.length < off + 2 then [.warn (.short .targets)]
  else
    let count := ((p[off]?).map BitVec.toNat).getD 0
    let fit := (p.length - off - 2) / prof.recSz
    let n := min count (min prof.maxTargets fit)
    (if n < count then [.warn (.trunc count n)] else []) ++ recordEvents prof items p off 0 n

/-- One item of a handler (R214). -/
def itemEvents (prof : Profile) (p : List Byte) (i : Item) : List Event :=
  match i with
  | .single r => recItemEvents prof p none r
  | .targets off items => targetsEvents prof p off items
  | .log tag => [.logInfo tag]

/-- A handler: its items in list order (R214). -/
def handlerEvents (prof : Profile) (p : List Byte) (items : List Item) : List Event :=
  items.flatMap (itemEvents prof p)

/-- `HANDLERS[t][cmd]` (R104). -/
def handlerOf (t : FrameType) (c : Option Nat) : Option (List Item) := t.handlers.lookup c

/-- `known(buf)`, bit K of the selection word (R212). -/
def State.known (s : State) : Bool :=
  s.valid && (s.front.bind fun f => handlerOf f.ty f.cmd).isSome

/-! ## The ITEM and CMD rows, run by themselves on a payload -/

/-- FIELD (R214). -/
def execField (p : List Byte) (sink off : Nat) (kind : Kind) (k : Option Nat) (s : State) :
    Host.Outcome State Fault Refusal :=
  .next (s.emitAll (recItemEvents s.prof p none (.field sink off kind k)))

/-- BITFIELD (R227). -/
def execBitfield (p : List Byte) (sink off hi lo m : Nat) (s : State) : Host.Outcome State Fault Refusal :=
  if recItemOk s.prof.bitmaps (.bitfield sink off hi lo m) then
    .next (s.emitAll (recItemEvents s.prof p none (.bitfield sink off hi lo m)))
  else .refused .itemNotAdmitted

/-- TARGETS (R224). -/
def execTargets (p : List Byte) (off : Nat) (items : List RecItem) (s : State) : Host.Outcome State Fault Refusal :=
  if items.all (recItemOk s.prof.bitmaps) then .next (s.emitAll (itemEvents s.prof p (.targets off items)))
  else .refused .itemNotAdmitted

/-- LOG (R214). -/
def execLog (tag : Tag) (s : State) : Host.Outcome State Fault Refusal :=
  .next (s.emitAll (itemEvents s.prof [] (.log tag)))

/-- CMD_P1_0x11_FACTORY_RESET (R216): the handler P1's table gives command 0x11. "A log event only." -/
def execCmdP1FactoryReset (s : State) : Host.Outcome State Fault Refusal :=
  .next (s.emitAll (handlerEvents s.prof [] ((Config.p1Handlers.lookup (some 0x11)).getD [])))

end Sys2Proof.Machine
end

