-- ==== Sys2Proof/Machine/Flags.lean ====
section
/-! DEFINITION. The flags read as words: STATUS (R32) and the selection word (R101), and what the selection word
selects (R102, R121). -/

namespace Sys2Proof.Machine

/-- A flag as a bit. -/
def bit (b : Bool) : Nat := if b then 1 else 0

/-- STATUS (R32): bit 0 HF, 1 WARN, 2 FAILED, 3 XBUSY, bits 7:4 read as 0. -/
def State.status (s : State) : BitVec 8 :=
  BitVec.ofNat 8 (bit s.hf + 2 * bit s.warn + 4 * bit s.failed + 8 * bit (s.xchg == .sent))

/-- Bit M of the selection word: a byte is available and it is a first header byte (R101). -/
def State.headIsFirst (s : State) : Bool :=
  match s.peek with
  | none => false
  | some b => isFirst s.prof b

/-- The selection word S, bits F H R A M V K, most significant first (R101). -/
def State.selWord (s : State) : BitVec 7 :=
  BitVec.ofNat 7
    (64 * bit s.failed + 32 * bit s.hf + 16 * bit s.ready + 8 * bit s.avail + 4 * bit s.headIsFirst +
      2 * bit s.valid + bit s.known)

/-- The micro-operation the state selects (R102); every word selects one (R103), so the default never answers. -/
def State.select (s : State) : MicroOp := (decodeSel s.selWord).getD .idle

/-- The micro-step's priority list, "which is equivalent to the table" (R121). -/
def State.selectByPriority (s : State) : MicroOp :=
  if s.failed then .halt
  else if s.ready then
    if !s.valid then .reject else if s.known then .dispatch else .unknown
  else if !s.avail then .idle
  else if !s.hf then
    if !s.headIsFirst then .discard else .sync
  else .append

/-- Quiescent: the selected micro-operation is IDLE or HALT (R123). -/
def State.quiescent (s : State) : Bool := s.select == .idle || s.select == .halt

/-- The error condition the selected micro-operation recognises, if any (R290, R301); condition 5 arises only inside
XCHG. -/
def State.condition (s : State) : Option Condition :=
  match s.select with
  | .halt => some .setupFailure
  | .discard => some .syncNoise
  | .idle => if s.hf then some .incompleteFrame else none
  | .reject => (rejectCause s.prof s.buf).map .malformedFrame
  | .unknown => s.front.map fun f => .unknownCommand f.t f.cmd
  | _ => none

end Sys2Proof.Machine
end

