-- ==== Sys2Proof/Machine/Micro.lean ====
section
/-! DEFINITION. The eight parser micro-operations: what each does, and its meaning as an instruction. A
micro-operation is performed only in a state that selects it (R102, R103): run by itself in another state it is
refused (log 3). -/

namespace Sys2Proof.Machine

/-- Perform a micro-operation if the state selects it (R102). -/
def whenSelected (op : MicroOp) (s t : State) : Host.Outcome State Fault Refusal :=
  if s.select = op then .next t else .refused (.notSelected op)

/-- HALT (R127): nothing. -/
def doHalt (s : State) : State := s

/-- IDLE (R128): nothing. -/
def doIdle (s : State) : State := s

/-- DISCARD (R143): the head byte is popped and dropped. -/
def doDiscard (s : State) : State :=
  match s.pop with
  | none => s
  | some (_, s') => s'

/-- SYNC (R144): `hf <- true; b <- src.pop(); MemWrite(APPEND, b)`. -/
def doSync (s : State) : State :=
  match (s.setHf true).pop with
  | none => s
  | some (b, s') => s'.memAppend b

/-- APPEND (R146), with the redundant flag write of R147. -/
def doAppend (s : State) : State :=
  match (s.setHf true).pop with
  | none => s
  | some (b, s') => s'.memAppend b

/-- REJECT (R196): exception 3 with the first cause that applies. -/
def doReject (s : State) : State :=
  match rejectCause s.prof s.buf with
  | none => s
  | some c => raise (.malformedFrame c) s

/-- The erase (R222): `buf <- drop(total, buf)`, then `hf <- (len > 0)`, then `warn <- false`. -/
def consume (n : Nat) (s : State) : State :=
  let s := s.eraseFront n
  (s.setHf (decide (0 < s.len))).setWarn false

/-- DISPATCH (R220). -/
def doDispatch (s : State) : State :=
  match s.front with
  | none => s
  | some f =>
    let s := s.emit (.frame f.t f.cmd f.payload)
    let s := s.emitAll (handlerEvents s.prof f.payload ((handlerOf f.ty f.cmd).getD []))
    consume f.total s

/-- UNKNOWN (R221): exception 4. -/
def doUnknown (s : State) : State :=
  match s.front with
  | none => s
  | some f =>
    let s := s.emit (.frame f.t f.cmd f.payload)
    let s := raise (.unknownCommand f.t f.cmd) s
    consume f.total s

/-- Perform a micro-operation. -/
def perform (op : MicroOp) (s : State) : State :=
  match op with
  | .halt => doHalt s
  | .reject => doReject s
  | .dispatch => doDispatch s
  | .unknown => doUnknown s
  | .idle => doIdle s
  | .discard => doDiscard s
  | .sync => doSync s
  | .append => doAppend s

/-! ## The SEL7 rows -/

/-- HALT (R127). -/
def execHalt (s : State) : Host.Outcome State Fault Refusal := whenSelected .halt s (doHalt s)

/-- REJECT (R196). -/
def execReject (s : State) : Host.Outcome State Fault Refusal := whenSelected .reject s (doReject s)

/-- DISPATCH (R220). -/
def execDispatch (s : State) : Host.Outcome State Fault Refusal := whenSelected .dispatch s (doDispatch s)

/-- UNKNOWN (R221). -/
def execUnknown (s : State) : Host.Outcome State Fault Refusal := whenSelected .unknown s (doUnknown s)

/-- IDLE (R128). -/
def execIdle (s : State) : Host.Outcome State Fault Refusal := whenSelected .idle s (doIdle s)

/-- DISCARD (R143). -/
def execDiscard (s : State) : Host.Outcome State Fault Refusal := whenSelected .discard s (doDiscard s)

/-- SYNC (R144). -/
def execSync (s : State) : Host.Outcome State Fault Refusal := whenSelected .sync s (doSync s)

/-- APPEND (R146). -/
def execAppend (s : State) : Host.Outcome State Fault Refusal := whenSelected .append s (doAppend s)

end Sys2Proof.Machine
end

