-- ==== Sys2Proof/Machine/Pure.lean ====
section
/-! DEFINITION. The KIND4 and CK2 rows: pure functions of their operands (R241, R183, R184), whose value the model shows
in `result` (log 2). A failed guard of an extractor operation is no stop: "the operation is not performed" (R241) and
there is no value. The reserved codes are refused (R113). -/

namespace Sys2Proof.Machine

/-- Show the value of an extractor operation; nothing where its guard failed (R241). -/
def State.showInt (s : State) (v : Option Int) : State :=
  { s with result := match v with
      | none => .nothing
      | some v => .int v }

/-- Show a checksum byte; nothing where there is no checksum (R183). -/
def State.showByte (s : State) (v : Option Byte) : State :=
  { s with result := match v with
      | none => .nothing
      | some b => .byte b }

/-- Show a byte string. -/
def State.showBytes (s : State) (l : List Byte) : State := { s with result := .bytes l }

/-- RD_U8 (R243). -/
def execRdU8 (p : List Byte) (off : Nat) (s : State) : Host.Outcome State Fault Refusal :=
  .next (s.showInt (rdU8 p off))

/-- RD_I8 (R244). -/
def execRdI8 (p : List Byte) (off : Nat) (s : State) : Host.Outcome State Fault Refusal :=
  .next (s.showInt (rdI8 p off))

/-- RD_U16LE (R245). -/
def execRdU16le (p : List Byte) (off : Nat) (s : State) : Host.Outcome State Fault Refusal :=
  .next (s.showInt (rdU16le p off))

/-- RD_U16BE (R246). -/
def execRdU16be (p : List Byte) (off : Nat) (s : State) : Host.Outcome State Fault Refusal :=
  .next (s.showInt (rdU16be p off))

/-- RD_I16LE (R247). -/
def execRdI16le (p : List Byte) (off : Nat) (s : State) : Host.Outcome State Fault Refusal :=
  .next (s.showInt (rdI16le p off))

/-- RD_I16BE (R248). -/
def execRdI16be (p : List Byte) (off : Nat) (s : State) : Host.Outcome State Fault Refusal :=
  .next (s.showInt (rdI16be p off))

/-- RD_U32LE (R249). -/
def execRdU32le (p : List Byte) (off : Nat) (s : State) : Host.Outcome State Fault Refusal :=
  .next (s.showInt (rdU32le p off))

/-- RD_U32BE (R250). -/
def execRdU32be (p : List Byte) (off : Nat) (s : State) : Host.Outcome State Fault Refusal :=
  .next (s.showInt (rdU32be p off))

/-- RD_I32LE (R251). -/
def execRdI32le (p : List Byte) (off : Nat) (s : State) : Host.Outcome State Fault Refusal :=
  .next (s.showInt (rdI32le p off))

/-- RD_I32BE (R251). -/
def execRdI32be (p : List Byte) (off : Nat) (s : State) : Host.Outcome State Fault Refusal :=
  .next (s.showInt (rdI32be p off))

/-- Reserved extractor code 0001 (R113). -/
def execReservedKind0001 (_ : State) : Host.Outcome State Fault Refusal := .refused (.reservedKind 0x1)

/-- Reserved extractor code 1001 (R113). -/
def execReservedKind1001 (_ : State) : Host.Outcome State Fault Refusal := .refused (.reservedKind 0x9)

/-- Reserved extractor code 0110 (R113). -/
def execReservedKind0110 (_ : State) : Host.Outcome State Fault Refusal := .refused (.reservedKind 0x6)

/-- Reserved extractor code 0111 (R113). -/
def execReservedKind0111 (_ : State) : Host.Outcome State Fault Refusal := .refused (.reservedKind 0x7)

/-- Reserved extractor code 1110 (R113). -/
def execReservedKind1110 (_ : State) : Host.Outcome State Fault Refusal := .refused (.reservedKind 0xE)

/-- Reserved extractor code 1111 (R113). -/
def execReservedKind1111 (_ : State) : Host.Outcome State Fault Refusal := .refused (.reservedKind 0xF)

/-- CK_NONE (R183). -/
def execCkNone (span : List Byte) (s : State) : Host.Outcome State Fault Refusal :=
  .next (s.showByte (ckValue .none span))

/-- CK_SUM8 (R181). -/
def execCkSum8 (span : List Byte) (s : State) : Host.Outcome State Fault Refusal :=
  .next (s.showByte (ckValue .sum8 span))

/-- CK_NEG8 (R182). -/
def execCkNeg8 (span : List Byte) (s : State) : Host.Outcome State Fault Refusal :=
  .next (s.showByte (ckValue .neg8 span))

/-- CK_CUSTOM (R183): the value is free, a function of the span alone. -/
def execCkCustom (fn : Nat) (span : List Byte) (s : State) : Host.Outcome State Fault Refusal :=
  .next (s.showByte (ckValue (.custom fn) span))

end Sys2Proof.Machine
end

