-- ==== Sys2Proof/Machine/Encoder.lean ====
section
/-! DEFINITION. The companion unit (46_command_encoder): ENCODE, XMIT, XCHG with its wait loop and the decoding of the
reply. -/

namespace Sys2Proof.Machine

open Sys2Proof.Config (FrameType Profile)

/-- `c as CMD_W bytes in order CMD_END`, `[]` when `CMD_W = 0` (R271); none outside the preconditions. -/
def cmdBytes (t : FrameType) (c : Option Nat) : Option (List Byte) :=
  match c with
  | none => if t.cmdW = 0 then some [] else none
  | some v => if t.cmdW ≠ 0 ∧ v < 2 ^ (8 * t.cmdW) then some (bytesOf t.cmdEnd t.cmdW v) else none

/-- `(total - LF_BASE) as LF_W bytes in order LF_END`, `[]` when FIXED (R271); none outside the preconditions. -/
def lenBytes (t : FrameType) (total : Nat) : Option (List Byte) :=
  match t.lenMode with
  | .fixed n => if total = n then some [] else none
  | .field w e base => if base ≤ total ∧ total - base < 2 ^ (8 * w) then some (bytesOf e w (total - base)) else none

/-- ENCODE for a frame type (R271). -/
def encodeType (t : FrameType) (c : Option Nat) (p : List Byte) : Option (List Byte) :=
  (cmdBytes t c).bind fun cmdb =>
    let body := cmdb ++ p
    let total := t.hdr.length + t.lfW + body.length + t.ckW + t.tail.length
    (lenBytes t total).map fun lenb =>
      let pre := t.hdr ++ lenb ++ body
      pre ++ ckField t pre ++ t.tail

/-- `ENCODE(t, c, p)` (R271); none outside its preconditions, where it "is not defined". -/
def encodeRequest (prof : Profile) (t : Nat) (c : Option Nat) (p : List Byte) : Option (List Byte) :=
  (prof.types[t]?).bind fun ty => encodeType ty c p

/-- A bit-packed configuration byte (R273): `x` is placed in bits `hi:lo` of `b` where `BITMAP[m][x]` is the wanted
meaning `e`, "keeping the encode and decode directions symmetric". "This requires `BITMAP[m]` to be injective", and
the map to be one a BITFIELD may use (R227): none where it is not, and none where no entry has that meaning. -/
def packBits (prof : Profile) (hi lo m e : Nat) (b : Byte) : Option Byte :=
  (prof.bitmaps[m]?).bind fun table =>
    if Config.recItemOk prof.bitmaps (.bitfield 0 0 hi lo m) = true ∧ table.Nodup then
      (table.idxOf? e).map fun x =>
        BitVec.ofNat 8 (b.toNat - bitRange b hi lo * 2 ^ lo + x * 2 ^ lo)
    else none

/-- ENCODE run by itself (R271). -/
def execEncodeFrame (t : Nat) (c : Option Nat) (p : List Byte) (s : State) : Host.Outcome State Fault Refusal :=
  match encodeRequest s.prof t c p with
  | none => .refused .encodeUndefined
  | some f => .next (s.showBytes f)

/-- XMIT (R274). -/
def execXmit (t : Nat) (c : Option Nat) (p : List Byte) (s : State) : Host.Outcome State Fault Refusal :=
  match encodeRequest s.prof t c p with
  | none => .refused .encodeUndefined
  | some f => .next (s.txWrite f).txFlush

/-- The wait loop of XCHG (R280), at most `fuel` looks: the reply read so far is `r`, `tries` looks found no byte.
Bytes may arrive before each look. None is the time-out. -/
def xchgWait : Nat → Nat → List Byte → State → State × Option (List Byte)
  | 0, _, _, s => (s, none)
  | fuel + 1, tries, r, s =>
    if s.prof.replyLen ≤ r.length then (s, some r)
    else
      let s := s.arrive
      match s.pop with
      | some (b, s') => xchgWait fuel tries (r ++ [b]) s'
      | none => if s.prof.xchgTimeout ≤ tries + 1 then (s, none) else xchgWait fuel (tries + 1) r s

/-- Enough looks for any wait: every look reads a byte of the reply or counts a try. -/
def State.waitFuel (s : State) : Nat := s.prof.replyLen + s.prof.xchgTimeout + 1

/-- DECODE of a reply (R282): the validator's checks with `total = REPLY_LEN`, then the reply type's handler. The
buffer and `hf` are not touched. A first byte of no type is `NOTYPE` (log 11); a command with no handler is logged as
unknown (log 10). -/
def decodeReply (r : List Byte) (s : State) : State :=
  match ftype s.prof r with
  | none => (s.emit (.warn (.malformed .noType))).setWarn true
  | some (i, t) =>
    match frameCause t r s.prof.replyLen with
    | some c => (s.emit (.warn (.malformed c))).setWarn true
    | none =>
      let f := frontOf i t r s.prof.replyLen
      let s := s.emit (.frame f.t f.cmd f.payload)
      let s :=
        match handlerOf f.ty f.cmd with
        | some items => s.emitAll (handlerEvents s.prof f.payload items)
        | none => raise (.unknownCommand f.t f.cmd) s
      s.setWarn false

/-- XCHG is admitted (R281). -/
def State.xchgAdmitted (s : State) : Bool := s.xchg == .idle && !s.hf && s.len == 0

/-- XCHG after its request `f` is encoded (R280). -/
def doXchg (c : Option Nat) (p f : List Byte) (s : State) : State :=
  let s := ((s.beginExchange c p).txWrite f).txFlush
  match xchgWait s.waitFuel 0 [] s with
  | (s, none) => raise .exchangeTimeout s
  | (s, some r) => (decodeReply r s).endExchange

/-- XCHG (R280). -/
def execXchg (t : Nat) (c : Option Nat) (p : List Byte) (s : State) : Host.Outcome State Fault Refusal :=
  if s.xchgAdmitted then
    match encodeRequest s.prof t c p with
    | none => .refused .encodeUndefined
    | some f => .next (doXchg c p f s)
  else .refused .xchgNotAdmitted

end Sys2Proof.Machine
end

