-- ==== Sys2Proof/Machine/Frames.lean ====
section
/-! DEFINITION. The FRAME rows: a byte string of a wire layout (R82, R85 to R88) arriving at the Byte Source. A layout is
what the block decodes, not something it does; the one thing that happens with a byte string of it is that the
producer delivers it (R20, R51), and the pipeline then gathers, checks and dispatches it (log 4). -/

namespace Sys2Proof.Machine

/-- FRAME_GENERAL (R80, R82): the parts of a frame, in their order, arrive. -/
def execFrameGeneral (f : WireFrame) (s : State) : Host.Outcome State Fault Refusal :=
  .next (s.produce f.bytes)

/-- FRAME_P1 (R85). -/
def execFrameP1 (cmd : Byte) (payload : List Byte) (s : State) : Host.Outcome State Fault Refusal :=
  .next (s.produce (wireP1 cmd payload))

/-- FRAME_P2 (R86). -/
def execFrameP2 (hdr : List Byte) (cmd : Nat) (payload tail : List Byte) (s : State) :
    Host.Outcome State Fault Refusal :=
  .next (s.produce (wireP2 hdr cmd payload tail))

/-- FRAME_P3 (R87). -/
def execFrameP3 (b0 : Byte) (body : List Byte) (s : State) : Host.Outcome State Fault Refusal :=
  .next (s.produce (wireP3 b0 body))

/-- LAYOUT_P4 (R88): the bytes of a per-target region, part of some frame's payload, arrive. -/
def execLayoutP4 (count flags : Byte) (records : List Byte) (s : State) : Host.Outcome State Fault Refusal :=
  .next (s.produce (wireP4 count flags records))

end Sys2Proof.Machine
end

