-- ==== Sys2Proof/Machine/HostPort.lean ====
section
/-! DEFINITION. The HOST3 rows that are not POLL, XMIT or XCHG: NOP, RESET, MARK_FAILED and the two reserved codes
(R108, R330, R331). -/

namespace Sys2Proof.Machine

/-- NOP, host code 000 (R331): no effect. -/
def execNop (s : State) : Host.Outcome State Fault Refusal := .next s

/-- RESET, host code 010 (R330): total; emits nothing, pops nothing. The Byte Source is not touched (R332) and the
profile is unchanged (R38). -/
def execReset (s : State) : Host.Outcome State Fault Refusal :=
  .next ((((s.clear.setHf false).setWarn false).setFailed false).endExchange)

/-- MARK_FAILED, host code 011 (R331): condition 6. -/
def execMarkFailed (s : State) : Host.Outcome State Fault Refusal := .next (raise .setupFailure s)

/-- Reserved host code 110 (R113, R331). -/
def execReservedHost110 (_ : State) : Host.Outcome State Fault Refusal := .refused (.reservedHost 0x6)

/-- Reserved host code 111 (R113, R331). -/
def execReservedHost111 (_ : State) : Host.Outcome State Fault Refusal := .refused (.reservedHost 0x7)

end Sys2Proof.Machine
end

