-- ==== Sys2Proof/Machine/Pipeline.lean ====
section
/-! DEFINITION. The step pipeline (40_step_pipeline): the micro-step, POLL, and the transducer of R129. -/

namespace Sys2Proof.Machine

/-- IDLE and HALT end a POLL (R122). -/
def endsPoll (op : MicroOp) : Bool := op == .idle || op == .halt

/-- One micro-step (R121): bytes may arrive, then the selected micro-operation is performed. -/
def microStep (s : State) : MicroOp × State :=
  let s := s.arrive
  (s.select, perform s.select s)

/-- At most `n` micro-steps, up to and with the first IDLE or HALT (R122). -/
def pollLoop : Nat → State → State
  | 0, s => s
  | n + 1, s =>
    let r := microStep s
    if endsPoll r.1 then r.2 else pollLoop n r.2

/-- The micro-steps that are enough to reach quiescence, however the bytes arrive: the bound of R133 with the bytes
still to arrive counted in. -/
def State.work (s : State) : Nat := 2 * (s.q.length + s.future.flatten.length + s.len) + 1

/-- `POLL_BUDGET` (R9, R122): with `INF` a POLL runs until the machine is quiescent, within the bound of R133. -/
def State.pollFuel (s : State) : Nat :=
  match s.prof.pollBudget with
  | none => s.work
  | some n => n

/-- POLL (R122). -/
def doPoll (s : State) : State := pollLoop s.pollFuel s

/-- POLL, host code 001 (R122). -/
def execPoll (s : State) : Host.Outcome State Fault Refusal := .next (doPoll s)

/-- `feed1(st, b)` (R129): the one byte `b` in the queue, then micro-steps until IDLE. -/
def feed1 (s : State) (b : Byte) : State :=
  let s := s.produce [b]
  pollLoop s.work s

/-- `run(st, [b1, .., bn])` (R129). -/
def run (s : State) (l : List Byte) : State := l.foldl feed1 s

end Sys2Proof.Machine
end

