-- ==== Sys2Proof/Machine/Dispatch.lean ====
section
/-! DEFINITION. exec: one arm per operation, each one call of its meaning. -/

namespace Sys2Proof.Machine

/-- The meaning of an operation. -/
def exec (i : Instr) (s : State) : Host.Outcome State Fault Refusal :=
  match i with
  | .halt => Sys2Proof.Machine.execHalt s
  | .reject => Sys2Proof.Machine.execReject s
  | .dispatch => Sys2Proof.Machine.execDispatch s
  | .unknown => Sys2Proof.Machine.execUnknown s
  | .idle => Sys2Proof.Machine.execIdle s
  | .discard => Sys2Proof.Machine.execDiscard s
  | .sync => Sys2Proof.Machine.execSync s
  | .append => Sys2Proof.Machine.execAppend s
  | .rdU8 p off => Sys2Proof.Machine.execRdU8 p off s
  | .rdI8 p off => Sys2Proof.Machine.execRdI8 p off s
  | .rdU16le p off => Sys2Proof.Machine.execRdU16le p off s
  | .rdU16be p off => Sys2Proof.Machine.execRdU16be p off s
  | .rdI16le p off => Sys2Proof.Machine.execRdI16le p off s
  | .rdI16be p off => Sys2Proof.Machine.execRdI16be p off s
  | .rdU32le p off => Sys2Proof.Machine.execRdU32le p off s
  | .rdU32be p off => Sys2Proof.Machine.execRdU32be p off s
  | .rdI32le p off => Sys2Proof.Machine.execRdI32le p off s
  | .rdI32be p off => Sys2Proof.Machine.execRdI32be p off s
  | .reservedKind0001 => Sys2Proof.Machine.execReservedKind0001 s
  | .reservedKind1001 => Sys2Proof.Machine.execReservedKind1001 s
  | .reservedKind0110 => Sys2Proof.Machine.execReservedKind0110 s
  | .reservedKind0111 => Sys2Proof.Machine.execReservedKind0111 s
  | .reservedKind1110 => Sys2Proof.Machine.execReservedKind1110 s
  | .reservedKind1111 => Sys2Proof.Machine.execReservedKind1111 s
  | .ckNone span => Sys2Proof.Machine.execCkNone span s
  | .ckSum8 span => Sys2Proof.Machine.execCkSum8 span s
  | .ckNeg8 span => Sys2Proof.Machine.execCkNeg8 span s
  | .ckCustom fn span => Sys2Proof.Machine.execCkCustom fn span s
  | .nop => Sys2Proof.Machine.execNop s
  | .poll => Sys2Proof.Machine.execPoll s
  | .reset => Sys2Proof.Machine.execReset s
  | .markFailed => Sys2Proof.Machine.execMarkFailed s
  | .xmit t c p => Sys2Proof.Machine.execXmit t c p s
  | .xchg t c p => Sys2Proof.Machine.execXchg t c p s
  | .reservedHost110 => Sys2Proof.Machine.execReservedHost110 s
  | .reservedHost111 => Sys2Proof.Machine.execReservedHost111 s
  | .frameGeneral f => Sys2Proof.Machine.execFrameGeneral f s
  | .frameP1 cmd payload => Sys2Proof.Machine.execFrameP1 cmd payload s
  | .frameP2 hdr cmd payload tail => Sys2Proof.Machine.execFrameP2 hdr cmd payload tail s
  | .frameP3 b0 body => Sys2Proof.Machine.execFrameP3 b0 body s
  | .layoutP4 count flags records => Sys2Proof.Machine.execLayoutP4 count flags records s
  | .field p sink off kind scale => Sys2Proof.Machine.execField p sink off kind scale s
  | .bitfield p sink off hi lo map => Sys2Proof.Machine.execBitfield p sink off hi lo map s
  | .targets p off items => Sys2Proof.Machine.execTargets p off items s
  | .log tag => Sys2Proof.Machine.execLog tag s
  | .cmdP1FactoryReset => Sys2Proof.Machine.execCmdP1FactoryReset s
  | .encodeFrame t c p => Sys2Proof.Machine.execEncodeFrame t c p s

end Sys2Proof.Machine
end

