-- ==== Sys2Proof/Machine/Fetch.lean ====
section
/-! DEFINITION. Where the next operation comes from: the host command port (R108, log 3). And what must stand in the
state for a micro-operation to be the one it selects (R102), for a word placed at the port by the host's check. -/

namespace Sys2Proof.Machine

/-- The oldest operation word presented at the port, and the state without it; none when nothing is presented. -/
def State.nextWord (s : State) : Option (List Byte × State) :=
  match s.port with
  | [] => none
  | w :: r => some (w, { s with port := r })

/-- The micro-operation an instruction is, if it is one. -/
def microOpOf (i : Instr) : Option MicroOp :=
  [MicroOp.halt, .reject, .dispatch, .unknown, .idle, .discard, .sync, .append].find? fun op => op.toInstr == i

/-- The first header byte of type 0 (R141). -/
def someFirst (s : State) : Byte := ((s.prof.types.head?).bind fun t => t.hdr.head?).getD 0

/-- The lowest byte that is no first header byte. -/
def someNoise (s : State) : Byte :=
  (((List.range 256).map (BitVec.ofNat 8)).find? fun b => !isFirst s.prof b).getD 0

/-- A frame of type 0 with the first command of its table (`known`) or the first command below 256 that is not in it,
and a payload of zeros of the least length. -/
def someFrame (s : State) (known : Bool) : List Byte :=
  match s.prof.types with
  | [] => []
  | t :: _ =>
    let p := List.replicate
      (match t.lenMode with
        | .fixed n => n - t.minTotal
        | .field _ _ _ => 0) 0
    let c :=
      if known then (t.handlers.map Prod.fst).head?
      else ((List.range 256).map some).find? fun c => (handlerOf t c).isNone
    (c.bind fun c => encodeType t c p).getD []

/-- The state changed so that it selects `op` (R101, R102): the flags, and the buffer or the head of the queue as far
as the selection needs them. -/
def arrangeFor (op : MicroOp) (s : State) : State :=
  match op with
  | .halt => s.setFailed true
  | .reject => ((s.setFailed false).setHf true).setBuf [someNoise s]
  | .dispatch => ((s.setFailed false).setHf true).setBuf (someFrame s true)
  | .unknown => ((s.setFailed false).setHf true).setBuf (someFrame s false)
  | .idle => { (s.setFailed false).setHf false with q := [] }
  | .discard => { (s.setFailed false).setHf false with q := someNoise s :: s.q }
  | .sync => { (s.setFailed false).setHf false with q := someFirst s :: s.q }
  | .append => { ((s.setFailed false).setHf true).setBuf [someFirst s] with q := 0 :: s.q }

/-- The state in which the next step takes the operation word `w`: the word is presented first at the port, and where
it is a micro-operation the state selects it. -/
def State.present (s : State) (w : List Byte) : State :=
  let s :=
    match (decode w).bind microOpOf with
    | none => s
    | some op => arrangeFor op s
  { s with port := w :: s.port }

end Sys2Proof.Machine
end

