-- ==== Sys2Proof/Machine/Step.lean ====
section
/-! DEFINITION. One step: the oldest operation presented at the port is taken and run. With nothing presented the port
lines read 000, NOP (log 3). -/

namespace Sys2Proof.Machine

/-- One step of the machine. -/
def step (s : State) : Host.Outcome State Fault Refusal :=
  match s.nextWord with
  | none => .next s
  | some (w, s') =>
    match decode w with
    | none => .refused .undecodable
    | some i => exec i s'

/-- `s` with a table row's word stored where step takes its next operation. -/
def State.withFetchWord (s : State) (nbits w : Nat) : State := s.present (tableWord nbits w)

end Sys2Proof.Machine
end

