-- ==== Sys2Proof/Safety.lean ====
section
/-! DEFINITION. What holds in every reachable state (R24, R28, R131, R161, R33), what two runs are compared by (R130, R134),
what a run has left to take in, and the words the statements use to tie a handler, an extractor kind and an exchange to
the single operations they are made of. -/

namespace Sys2Proof.Machine

/-- The invariant of the block. -/
structure Inv (s : State) : Prop where
  /-- the buffer is in its canonical form -/
  canonical : memoryWf s.mem = true
  /-- `hf = true` exactly when `len > 0` (R28) -/
  flag : s.hf = true ↔ 0 < s.len
  /-- `0 <= len <= BUF_CAP` (R24) -/
  capacity : Config.withinCap s.prof.bufCap s.len = true
  /-- the first buffered byte is in FIRST (R161) -/
  typed : 0 < s.len → (ftype s.prof s.buf).isSome = true
  /-- the buffer never holds more than the one frame (R131) -/
  exact : ∀ n, total s.prof s.buf = some n → s.len ≤ n
  /-- outside an XCHG operation `xchg = IDLE` and `pending` holds nothing (R33) -/
  exchange : s.xchg = .idle ∧ s.pending = none

/-- What a claim about the block is stated over: the trace and the end state `(buf, hf, warn, failed)` (R36, R134). -/
def SameOutcome (s t : State) : Prop :=
  s.trace = t.trace ∧ s.mem = t.mem ∧ s.hf = t.hf ∧ s.warn = t.warn ∧ s.failed = t.failed

/-- The bytes still to be taken in: those in the Byte Source's queue and those still to arrive. -/
def State.stream (s : State) : List Byte := s.q ++ s.future.flatten

/-- All input is consumed and the machine is quiescent (R130, R134). -/
def State.drained (s : State) : Prop := s.quiescent = true ∧ s.stream = []

/-- Two profiles that differ in `POLL_BUDGET` at most. -/
def SameButBudget (p p' : Config.Profile) : Prop := { p with pollBudget := p'.pollBudget } = p'

/-- `f` is a frame that is valid for some type and holds nothing but that frame (R132): as the content of the buffer
it is valid, and its total length is its length. -/
def ValidFrame (s : State) (f : List Byte) : Prop :=
  ({ s with mem := memoryOf f, hf := true } : State).valid = true ∧ total s.prof f = some f.length

/-- The events a validated frame yields: `Frame`, then its handler's events or the log of an unknown command (R213,
R220, R221). -/
def frameEvents (prof : Config.Profile) (f : Front) : List Event :=
  .frame f.t f.cmd f.payload ::
    match handlerOf f.ty f.cmd with
    | some items => handlerEvents prof f.payload items
    | none => [.logUnknown f.t f.cmd]

/-- The extractor operation that a kind code names, as the instruction of that code (R105). -/
def kindInstr (k : Kind) (p : List Byte) (off : Nat) : Instr :=
  match k with
  | .u8 => .rdU8 p off
  | .i8 => .rdI8 p off
  | .u16le => .rdU16le p off
  | .u16be => .rdU16be p off
  | .i16le => .rdI16le p off
  | .i16be => .rdI16be p off
  | .u32le => .rdU32le p off
  | .u32be => .rdU32be p off
  | .i32le => .rdI32le p off
  | .i32be => .rdI32be p off

/-- A handler item on the payload `p`, as the instruction of its row (R214). -/
def itemInstr (p : List Byte) (i : Item) : Instr :=
  match i with
  | .single (.field sink off kind k) => .field p sink off kind k
  | .single (.bitfield sink off hi lo m) => .bitfield p sink off hi lo m
  | .targets off items => .targets p off items
  | .log tag => .log tag

/-- Instructions one after another, in list order, up to the first that answers no next state. -/
def execAll : List Instr → State → Host.Outcome State Fault Refusal
  | [], s => .next s
  | i :: is, s =>
    match exec i s with
    | .next t => execAll is t
    | .fault r => .fault r
    | .refused r => .refused r

/-- One look of an exchange's wait loop (R280): bytes may arrive, then a byte is popped and joins the reply read so far,
or there is none. -/
def exchangeLook (s : State) (r : List Byte) : State × List Byte :=
  match s.arrive.q with
  | [] => (s.arrive, r)
  | b :: q => ({ s.arrive with q := q }, r ++ [b])

/-- `n` looks, from the state `s` and the reply `r` read so far. A look that popped nothing leaves the reply as it is, so
`n` less the number of bytes read is the number of empty looks, `tries` (R280). -/
def exchangeLooks : Nat → State → List Byte → State × List Byte
  | 0, s, r => (s, r)
  | n + 1, s, r => exchangeLooks n (exchangeLook s r).1 (exchangeLook s r).2

/-- The wait loop ends after `n` looks with the whole reply: fewer looks do not give it, and `XCHG_TIMEOUT` empty looks
have not been counted (R280). -/
def ReplyComesAt (s : State) (n : Nat) : Prop :=
  (exchangeLooks n s []).2.length = s.prof.replyLen ∧ n < s.prof.replyLen + s.prof.xchgTimeout ∧
    ∀ m, m < n → (exchangeLooks m s []).2.length < s.prof.replyLen

/-- The wait loop ends after `n` looks in ABORT: the reply is short, `XCHG_TIMEOUT` looks found no byte, and fewer looks
had not counted as many (R280, R295). -/
def AbortsAt (s : State) (n : Nat) : Prop :=
  (exchangeLooks n s []).2.length < s.prof.replyLen ∧
    n = (exchangeLooks n s []).2.length + s.prof.xchgTimeout ∧
    ∀ m, m < n → m < (exchangeLooks m s []).2.length + s.prof.xchgTimeout

/-- `n` micro-steps (R121). -/
def microSteps : Nat → State → State
  | 0, s => s
  | n + 1, s => microSteps n (microStep s).2

/-- `n` POLLs one after another. -/
def polls : Nat → State → State
  | 0, s => s
  | n + 1, s => polls n (doPoll s)

end Sys2Proof.Machine
end

