-- ==== Sys2Proof/Certificates/Slice0/Obligations.lean ====
section
/-! DEFINITION. The statements for the provers. Each docstring names the rule it rests on; a clause that rests on a choice
of the model names the log entry. -/

open Sys2Proof Sys2Proof.Machine
open Sys2Proof.Config (FrameType CkFn Sink p1Type p2Type p3Type)

/-! ## Selection and the pipeline -/

/-- R101: the seven bits of the selection word, and the forcing of R, M, V and K. -/
def Obligations.SelectionWordBits : Prop :=
  ∀ s : State,
    s.selWord.getLsbD 6 = s.failed ∧ s.selWord.getLsbD 5 = s.hf ∧ s.selWord.getLsbD 4 = s.ready ∧
    s.selWord.getLsbD 3 = s.avail ∧ s.selWord.getLsbD 2 = (s.avail && s.headIsFirst) ∧
    s.selWord.getLsbD 1 = (s.ready && s.valid) ∧ s.selWord.getLsbD 0 = (s.valid && s.known) ∧
    (s.hf = false → s.ready = false) ∧ (s.avail = false → s.headIsFirst = false) ∧
    (s.ready = false → s.valid = false) ∧ (s.valid = false → s.known = false)

/-- R103: the eight patterns are pairwise disjoint and together cover every word. -/
def Obligations.EveryWordHitsExactlyOnePattern : Prop :=
  ∀ w : BitVec 7, (selTable.filter fun r => r.hits w).length = 1

/-- R121, R102, R103: the selection table and the priority list agree in every state and the selected micro-operation
runs. That a micro-operation presented in a state that does not select it is refused is the model's choice (log 3). -/
def Obligations.ExactlyTheSelectedMicroOperationRuns : Prop :=
  ∀ s : State,
    decodeSel s.selWord = some s.select ∧ s.select = s.selectByPriority ∧
    exec s.select.toInstr s = .next (perform s.select s) ∧
    ∀ op, op ≠ s.select → exec op.toInstr s = .refused (.notSelected op)

/-- R127: HALT changes nothing and ends the POLL; in a failed instance a POLL does nothing. That the next
batch of arrivals lands in the queue meanwhile is the model's choice (log 6). -/
def Obligations.HaltChangesNothing : Prop :=
  ∀ s : State, s.failed = true → exec .halt s = .next s ∧ exec .poll s = .next s.arrive

/-- R128: IDLE changes nothing and ends the POLL; a partial frame stays as it is (arrivals: the model's choice, log 6). -/
def Obligations.IdleChangesNothing : Prop :=
  ∀ s : State, s.failed = false → s.ready = false → s.q = [] →
    exec .idle s = .next s ∧ (s.arrive.q = [] → exec .poll s = .next s.arrive)

/-- R122: a POLL is a run of micro-steps up to and with the first IDLE or HALT, cut short by `POLL_BUDGET` only. That it
is one step is the model's choice (log 7). -/
def Obligations.PollRunsMicroStepsUntilIdleHaltOrBudget : Prop :=
  ∀ s : State, ∃ k, 1 ≤ k ∧ exec .poll s = .next (microSteps k s) ∧
    (∀ j, j + 1 < k → endsPoll (microStep (microSteps j s)).1 = false) ∧
    match s.prof.pollBudget with
    | none => endsPoll (microStep (microSteps (k - 1) s)).1 = true
    | some n => k ≤ n ∧ (endsPoll (microStep (microSteps (k - 1) s)).1 = true ∨ k = n)

/-- R133: with no budget, at most `2*(m + n) + 1` micro-operations lead to quiescence, `m` bytes being still to be taken
in and `n` being buffered (when bytes arrive: log 6). -/
def Obligations.PollReachesQuiescenceWithinBound : Prop :=
  ∀ s : State, s.prof.pollBudget = none →
    ∃ k, 1 ≤ k ∧ k ≤ 2 * (s.stream.length + s.len) + 1 ∧ exec .poll s = .next (microSteps k s) ∧
      (microSteps k s).quiescent = true ∧
      ∀ j, j + 1 < k → (microStep (microSteps j s)).2.stream.length + 1 ≤ (microSteps j s).stream.length ∨
        (microStep (microSteps j s)).2.len < (microSteps j s).len

/-- R130: the outcome depends on the byte sequence alone, not on its chunking, on the budget or on the number of POLLs. -/
def Obligations.GroupingIndependence : Prop :=
  ∀ (s s' : State) (k k' : Nat),
    SameOutcome s s' → SameButBudget s.prof s'.prof → s.stream = s'.stream →
    (polls k s).drained → (polls k' s').drained → SameOutcome (polls k s) (polls k' s')

/-- R129, R130: one POLL over a whole byte string does what feeding its bytes one at a time does. -/
def Obligations.OnePollAgreesWithByteAtATime : Prop :=
  ∀ (s : State) (l : List Byte), s.prof.pollBudget = none → s.future = [] → s.q = [] → s.quiescent = true →
    ∃ t, exec .poll (s.produce l) = .next t ∧ SameOutcome t (run s l) ∧ t.q = (run s l).q

/-- R134: results of prefixes are prefixes of results for the trace. -/
def Obligations.RunTraceOfPrefixIsPrefix : Prop :=
  ∀ (s : State) (l l' : List Byte), (run s l).trace <+: (run s (l ++ l')).trace

/-! ## The synchronizer -/

/-- R143: DISCARD drops one byte that is no first header byte, silently. -/
def Obligations.DiscardDropsOneNoiseByte : Prop :=
  ∀ (s : State) (b : Byte) (r : List Byte),
    s.failed = false → s.hf = false → s.q = b :: r → isFirst s.prof b = false →
      exec .discard s = .next { s with q := r }

/-- R144: SYNC marks the header found and appends the byte that matched. -/
def Obligations.SyncMarksAndAppends : Prop :=
  ∀ (s : State) (b : Byte) (r : List Byte),
    s.failed = false → s.hf = false → s.q = b :: r → isFirst s.prof b = true →
      exec .sync s = .next { s with q := r, hf := true, mem := memoryOf (s.buf ++ [b]) }

/-- R146: APPEND appends the next byte whatever its value. -/
def Obligations.AppendTakesAnyByte : Prop :=
  ∀ (s : State) (b : Byte) (r : List Byte),
    s.failed = false → s.hf = true → s.ready = false → s.q = b :: r →
      exec .append s = .next { s with q := r, mem := memoryOf (s.buf ++ [b]) }

/-- R168: when APPEND is selected there is room for one more byte. -/
def Obligations.AppendSelectedOnlyWithRoom : Prop :=
  ∀ s : State, s.select = .append → Config.withinCap s.prof.bufCap (s.len + 1) = true

/-! ## The accumulator -/

/-- R162, R163: `total` is defined exactly when `len_known` holds. -/
def Obligations.TotalDefinedExactlyWhenLengthKnown : Prop :=
  ∀ (p : Config.Profile) (l : List Byte), lenKnown p l = (total p l).isSome

/-- R169: the type and the total do not change while a frame is being gathered. -/
def Obligations.TypeAndTotalStayWhileGathering : Prop :=
  ∀ (p : Config.Profile) (l : List Byte) (b : Byte) (i : Nat) (t : FrameType) (n : Nat),
    (ftype p l = some (i, t) → ftype p (l ++ [b]) = some (i, t)) ∧
    (total p l = some n → total p (l ++ [b]) = some n)

/-- R163, R90: `total` is defined only when `len_known`, and with the buffer's type it is the fixed total, or the value of
the length field, its bytes in their declared order, plus `LF_BASE` as an unbounded number. -/
def Obligations.TotalIsLengthFieldPlusBase : Prop :=
  ∀ (p : Config.Profile) (l : List Byte),
    (lenKnown p l = false → total p l = none) ∧
    ∀ (i : Nat) (t : FrameType), ftype p l = some (i, t) → ∀ (base : Nat) (b0 b1 : Byte),
      (t.lenMode = .fixed base → total p l = some base) ∧
      (t.lenMode = .field 1 .le base → l[t.hdr.length]? = some b0 → total p l = some (b0.toNat + base)) ∧
      (t.lenMode = .field 1 .be base → l[t.hdr.length]? = some b0 → total p l = some (b0.toNat + base)) ∧
      (t.lenMode = .field 2 .le base → l[t.hdr.length]? = some b0 → l[t.hdr.length + 1]? = some b1 →
        total p l = some (b0.toNat + 256 * b1.toNat + base)) ∧
      (t.lenMode = .field 2 .be base → l[t.hdr.length]? = some b0 → l[t.hdr.length + 1]? = some b1 →
        total p l = some (256 * b0.toNat + b1.toNat + base))

/-- R165, R166: a frame is complete when its total is known and buffered; `ready` is `hf`, at least one byte, and one of:
no type, a known total above `BUF_CAP`, a complete frame. -/
def Obligations.ReadyExactlyWhenSomethingCanBeDone : Prop :=
  ∀ s : State,
    (isComplete s.prof s.buf = true ↔ lenKnown s.prof s.buf = true ∧ ∃ n, total s.prof s.buf = some n ∧ n ≤ s.len) ∧
    (s.ready = true ↔
      s.hf = true ∧ 1 ≤ s.len ∧
        (ftype s.prof s.buf = none ∨
          (lenKnown s.prof s.buf = true ∧
            ∃ n cap, total s.prof s.buf = some n ∧ s.prof.bufCap = some cap ∧ cap < n) ∨
          isComplete s.prof s.buf = true))

/-! ## The validator -/

/-- R184: the arithmetic laws of the checksums. -/
def Obligations.ChecksumLaws : Prop :=
  (∀ l : List Byte, sum8 l = l.foldl (· + ·) 0) ∧
  (∀ l : List Byte, ((sum8 l).toNat + (neg8 l).toNat) % 256 = 0) ∧
  (∀ (l : List Byte) (i k : Nat) (b : Byte), l[i]? = some b → k < 8 →
    let l' := l.set i (b ^^^ (1#8 <<< k))
    (sum8 l' - sum8 l = 1#8 <<< k ∨ sum8 l' - sum8 l = -(1#8 <<< k)) ∧ sum8 l' ≠ sum8 l ∧ neg8 l' ≠ neg8 l) ∧
  (∀ l l' : List Byte, l.Perm l' → sum8 l = sum8 l' ∧ neg8 l = neg8 l') ∧
  ∃ (l : List Byte) (i j k : Nat) (b b' : Byte), k < 8 ∧ i ≠ j ∧ l[i]? = some b ∧ l[j]? = some b' ∧
    sum8 ((l.set i (b ^^^ (1#8 <<< k))).set j (b' ^^^ (1#8 <<< k))) = sum8 l

/-- R181, R182, R183: the checksum rows: the sum modulo 256, its negation modulo 256, no value for NONE, and for CUSTOM
the free function of the span. Where a value shows is the model's choice (log 2). -/
def Obligations.ChecksumRowsGiveTheirValue : Prop :=
  ∀ (s : State) (l : List Byte) (n : Nat),
    exec (.ckNone l) s = .next { s with result := .nothing } ∧
    exec (.ckSum8 l) s = .next { s with result := .byte (BitVec.ofNat 8 (l.map BitVec.toNat).sum) } ∧
    exec (.ckNeg8 l) s = .next { s with result := .byte (-(BitVec.ofNat 8 (l.map BitVec.toNat).sum)) } ∧
    exec (.ckCustom n l) s = .next { s with result := .byte (Config.ckCustom n l) }

/-- R190, R185 to R188: the first cause that applies, in the order of R190, each check read off the bytes. The buffer
holds the whole frame (`complete`, the guard of R185 to R188) except for NOTYPE and OVERSIZE. -/
def Obligations.RejectCauseIsTheFirstThatApplies : Prop :=
  ∀ (a : Config.Admitted) (l : List Byte),
    (ftype a.raw l = none → rejectCause a.raw l = some .noType) ∧
    ∀ (i : Nat) (t : FrameType) (n : Nat), ftype a.raw l = some (i, t) → totalOf t l = some n →
      (Config.withinCap a.raw.bufCap n = false → rejectCause a.raw l = some .oversize) ∧
      (Config.withinCap a.raw.bufCap n = true → n ≤ l.length →
        rejectCause a.raw l =
          if l.take t.hdr.length ≠ t.hdr then some .header
          else if n < t.minTotal then some .length
          else if (l.drop (n - t.tail.length)).take t.tail.length ≠ t.tail then some .trailer
          else if t.ckFn ≠ .none ∧
              ckValue t.ckFn ((l.drop t.ckStart).take (n - t.tail.length - 1 - t.ckStart)) ≠
                l[n - t.tail.length - 1]? then some .checksum
          else none)

/-- R196: REJECT warns with its cause, clears the whole buffer, resets the Header-Found Flag and sets `warn`. -/
def Obligations.RejectClearsTheBuffer : Prop :=
  ∀ (s : State) (c : Cause),
    s.failed = false → s.ready = true → rejectCause s.prof s.buf = some c →
      exec .reject s =
        .next { s with trace := s.trace ++ [.warn (.malformed c)], mem := [], hf := false, warn := true }

/-- R193: a flip of one bit of the command, the payload or the checksum byte of a valid frame, inside what SUM8 or NEG8
covers, is rejected with cause CHECKSUM. -/
def Obligations.SingleBitFlipIsRejected : Prop :=
  ∀ (s : State) (f : Front) (i k : Nat) (b : Byte),
    s.failed = false → s.valid = true → s.front = some f → (f.ty.ckFn = .sum8 ∨ f.ty.ckFn = .neg8) →
    cmdOff f.ty ≤ i → f.ty.ckStart ≤ i → i ≤ ckOff f.ty f.total → s.buf[i]? = some b → k < 8 →
      let s' := s.setBuf (s.buf.set i (b ^^^ (1#8 <<< k)))
      exec .reject s' =
        .next { s with trace := s.trace ++ [.warn (.malformed .checksum)], mem := [], hf := false, warn := true }

/-! ## The dispatcher -/

/-- R211, R84, R91: a valid frame taken apart: its bounds, its payload and its command. -/
def Obligations.ValidFrameHasItsFields : Prop :=
  ∀ s : State, s.valid = true →
    ∃ (f : Front), s.front = some f ∧ ftype s.prof s.buf = some (f.t, f.ty) ∧ total s.prof s.buf = some f.total ∧
      f.total ≤ s.len ∧ f.ty.minTotal ≤ f.total ∧
      f.payload = (s.buf.drop (f.ty.hdr.length + f.ty.lfW + f.ty.cmdW)).take (f.total - f.ty.minTotal) ∧
      f.payload.length = f.total - f.ty.minTotal ∧
      (f.ty.cmdW = 0 → f.cmd = none) ∧
      (f.ty.cmdW ≠ 0 →
        f.cmd = some (uint f.ty.cmdEnd ((s.buf.drop (f.ty.hdr.length + f.ty.lfW)).take f.ty.cmdW)))

/-- R220, R222, R104, R214: with a row of the type's table that has the frame's command as its key, DISPATCH emits the
frame, runs that row's items in list order on the payload, erases exactly the frame and clears `warn`. That each item is
also an instruction that runs by itself on a payload operand, with the same events, is the model's choice (log 15). -/
def Obligations.DispatchRunsHandlerAndErases : Prop :=
  ∀ (s : State) (f : Front) (items : List Item),
    s.failed = false → s.valid = true → s.front = some f → (f.cmd, items) ∈ f.ty.handlers →
      handlerOf f.ty f.cmd = some items ∧
      exec .dispatch s =
        .next { s with trace := s.trace ++ .frame f.t f.cmd f.payload :: handlerEvents s.prof f.payload items,
                       mem := memoryOf (s.buf.drop f.total), hf := decide (f.total < s.len), warn := false } ∧
      ∃ u, execAll (items.map (itemInstr f.payload))
          { s with trace := s.trace ++ [.frame f.t f.cmd f.payload] } = .next u ∧
        exec .dispatch s =
          .next { u with mem := memoryOf (s.buf.drop f.total), hf := decide (f.total < s.len), warn := false }

/-- R221, R222, R104: with no row of the type's table that has the frame's command as its key, UNKNOWN emits the frame, logs
the command, erases exactly the frame and clears `warn`. -/
def Obligations.UnknownLogsAndErases : Prop :=
  ∀ (s : State) (f : Front),
    s.failed = false → s.valid = true → s.front = some f → (∀ items, (f.cmd, items) ∉ f.ty.handlers) →
      handlerOf f.ty f.cmd = none ∧
      exec .unknown s =
        .next { s with trace := s.trace ++ [.frame f.t f.cmd f.payload, .logUnknown f.t f.cmd],
                       mem := memoryOf (s.buf.drop f.total), hf := decide (f.total < s.len), warn := false }

/-- R214, R217, R228, R252, R105: a FIELD item publishes the value it reads, to a present sink only; a short field warns and
publishes nothing. The value is the one that the instruction of the kind's code gives. That this
instruction shows its value in `result` (log 2), that a bare code of the table decodes with empty operands (log 5) and
that the item runs by itself on a payload operand is the model's choice (log 15). -/
def Obligations.FieldPublishesOrWarnsShort : Prop :=
  ∀ (s : State) (p : List Byte) (sink off k : Nat) (kind : Kind),
    (readKind kind p off = none → ∀ sc,
      exec (.field p sink off kind sc) s =
        .next { s with trace := s.trace ++ [.warn (.short (.sink { id := sink, target := none }))] }) ∧
    (∀ v, readKind kind p off = some v → sinkPresent s.prof { id := sink, target := none } = true →
      exec (.field p sink off kind none) s =
        .next { s with trace := s.trace ++ [.publish { id := sink, target := none } (.num v)] } ∧
      exec (.field p sink off kind (some k)) s =
        .next { s with trace := s.trace ++ [.publish { id := sink, target := none } (.scaled (Config.scale k v))] }) ∧
    (∀ v, readKind kind p off = some v → sinkPresent s.prof { id := sink, target := none } = false → ∀ sc,
      exec (.field p sink off kind sc) s = .next s) ∧
    decodeTableWord 4 kind.code = some (kindInstr kind [] 0) ∧
    exec (kindInstr kind p off) s =
      .next { s with result := match readKind kind p off with
        | none => .nothing
        | some v => .int v }

/-- R227, R228, R217: a BITFIELD item publishes the table entry of its bits; a short one warns; one no admitted profile
may hold is refused. Run by itself: the model's choice (log 15). -/
def Obligations.BitfieldPublishesTableEntry : Prop :=
  ∀ (s : State) (p : List Byte) (sink off hi lo m : Nat),
    (∀ table, s.prof.bitmaps[m]? = some table → hi ≤ 7 → lo ≤ hi → table.length = 2 ^ (hi - lo + 1) →
      (p.length ≤ off → exec (.bitfield p sink off hi lo m) s =
        .next { s with trace := s.trace ++ [.warn (.short (.sink { id := sink, target := none }))] }) ∧
      (∀ b, p[off]? = some b → ∃ e, table[(b.extractLsb' lo (hi - lo + 1)).toNat]? = some e ∧
        exec (.bitfield p sink off hi lo m) s =
          .next { s with trace := s.trace ++
            if sinkPresent s.prof { id := sink, target := none } then
              [.publish { id := sink, target := none } (.enum e)]
            else [] })) ∧
    (7 < hi ∨ hi < lo ∨ (s.prof.bitmaps[m]?).map List.length ≠ some (2 ^ (hi - lo + 1)) →
      exec (.bitfield p sink off hi lo m) s = .refused .itemNotAdmitted)

/-- R224, R225, R226: a TARGETS item reads `min(count, MAX_TARGETS, fit)` records, warns once when that is less than the
declared count, and runs its items on each record with the sink indexed by the target, a
FIELD and a BITFIELD in a record reading the record alone (R217, R227, R228). Run by itself, and refused with an item no
admitted profile may hold: the model's choice (log 15). -/
def Obligations.TargetsReadsBoundedRecords : Prop :=
  ∀ (s : State) (p : List Byte) (off : Nat) (items : List RecItem),
    (items.all (Config.recItemOk s.prof.bitmaps) = true →
      (p.length < off + 2 → exec (.targets p off items) s =
        .next { s with trace := s.trace ++ [.warn (.short .targets)] }) ∧
      (∀ count : Byte, off + 2 ≤ p.length → p[off]? = some count →
        let n := min count.toNat (min s.prof.maxTargets ((p.length - off - 2) / s.prof.recSz))
        exec (.targets p off items) s =
          .next { s with trace := s.trace ++
            ((if n < count.toNat then [.warn (.trunc count.toNat n)] else []) ++
              (List.range n).flatMap fun i =>
                items.flatMap
                  (recItemEvents s.prof ((p.drop (off + 2 + i * s.prof.recSz)).take s.prof.recSz) (some i))) })) ∧
    (items.all (Config.recItemOk s.prof.bitmaps) = false →
      exec (.targets p off items) s = .refused .itemNotAdmitted) ∧
    ∀ (rec : List Byte) (i sink o : Nat),
      let at' : Sink := { id := sink, target := some i }
      (∀ kind sc, recItemEvents s.prof rec (some i) (.field sink o kind sc) =
        match readKind kind rec o with
        | none => [.warn (.short (.sink at'))]
        | some v =>
          if sinkPresent s.prof at' then
            [.publish at' (match sc with
              | none => .num v
              | some k => .scaled (Config.scale k v))]
          else []) ∧
      ∀ hi lo m, recItemEvents s.prof rec (some i) (.bitfield sink o hi lo m) =
        match rec[o]? with
        | none => [.warn (.short (.sink at'))]
        | some b =>
          match (s.prof.bitmaps[m]?).bind fun table => table[(b.extractLsb' lo (hi - lo + 1)).toNat]? with
          | none => []
          | some e => if sinkPresent s.prof at' then [.publish at' (.enum e)] else []

/-- R214, R216: LOG emits its tag; P1's command 0x11 takes the "factory reset" log path and does nothing else. Run by
themselves: the model's choice (log 15). -/
def Obligations.LogAndFactoryResetEmitTheirTag : Prop :=
  ∀ (s : State) (tag : Tag),
    exec (.log tag) s = .next { s with trace := s.trace ++ [.logInfo tag] } ∧
    exec .cmdP1FactoryReset s = .next { s with trace := s.trace ++ [.logInfo .factoryReset] }

/-! ## The field extractor -/

/-- R243, R245, R246, R249, R250: the unsigned reads. Where a value shows is the model's choice (log 2). -/
def Obligations.UnsignedReadsGiveTheirValue : Prop :=
  ∀ (s : State) (p : List Byte) (off : Nat) (b0 b1 b2 b3 : Byte),
    (p[off]? = some b0 → exec (.rdU8 p off) s = .next { s with result := .int b0.toNat }) ∧
    (p[off]? = some b0 → p[off + 1]? = some b1 →
      exec (.rdU16le p off) s = .next { s with result := .int (b0.toNat + 2 ^ 8 * b1.toNat) } ∧
      exec (.rdU16be p off) s = .next { s with result := .int (2 ^ 8 * b0.toNat + b1.toNat) }) ∧
    (p[off]? = some b0 → p[off + 1]? = some b1 → p[off + 2]? = some b2 → p[off + 3]? = some b3 →
      exec (.rdU32le p off) s =
        .next { s with result := .int (b0.toNat + 2 ^ 8 * b1.toNat + 2 ^ 16 * b2.toNat + 2 ^ 24 * b3.toNat) } ∧
      exec (.rdU32be p off) s =
        .next { s with result := .int (2 ^ 24 * b0.toNat + 2 ^ 16 * b1.toNat + 2 ^ 8 * b2.toNat + b3.toNat) })

/-- R244, R247, R248, R251, R242: the signed reads are the two's complement readings of the same bit patterns. Where
a value shows is the model's choice (log 2). -/
def Obligations.SignedReadsGiveTheirValue : Prop :=
  ∀ (s : State) (p : List Byte) (off : Nat) (b0 b1 b2 b3 : Byte),
    (p[off]? = some b0 → exec (.rdI8 p off) s = .next { s with result := .int b0.toInt }) ∧
    (p[off]? = some b0 → p[off + 1]? = some b1 →
      exec (.rdI16le p off) s = .next { s with result := .int (b1 ++ b0).toInt } ∧
      exec (.rdI16be p off) s = .next { s with result := .int (b0 ++ b1).toInt }) ∧
    (p[off]? = some b0 → p[off + 1]? = some b1 → p[off + 2]? = some b2 → p[off + 3]? = some b3 →
      exec (.rdI32le p off) s = .next { s with result := .int (b3 ++ b2 ++ b1 ++ b0).toInt } ∧
      exec (.rdI32be p off) s = .next { s with result := .int (b0 ++ b1 ++ b2 ++ b3).toInt })

/-- R241: a read past the end of the byte string is not performed: there is no value, and nothing stops. Where a value
shows is the model's choice (log 2). -/
def Obligations.ShortReadsGiveNothing : Prop :=
  ∀ (s : State) (p : List Byte) (off : Nat),
    (p.length < off + 1 →
      exec (.rdU8 p off) s = .next { s with result := .nothing } ∧
      exec (.rdI8 p off) s = .next { s with result := .nothing }) ∧
    (p.length < off + 2 →
      exec (.rdU16le p off) s = .next { s with result := .nothing } ∧
      exec (.rdU16be p off) s = .next { s with result := .nothing } ∧
      exec (.rdI16le p off) s = .next { s with result := .nothing } ∧
      exec (.rdI16be p off) s = .next { s with result := .nothing }) ∧
    (p.length < off + 4 →
      exec (.rdU32le p off) s = .next { s with result := .nothing } ∧
      exec (.rdU32be p off) s = .next { s with result := .nothing } ∧
      exec (.rdI32le p off) s = .next { s with result := .nothing } ∧
      exec (.rdI32be p off) s = .next { s with result := .nothing })

/-- R113: the six reserved extractor codes are refused. -/
def Obligations.ReservedKindsAreRefused : Prop :=
  ∀ s : State,
    exec .reservedKind0001 s = .refused (.reservedKind 1) ∧ exec .reservedKind1001 s = .refused (.reservedKind 9) ∧
    exec .reservedKind0110 s = .refused (.reservedKind 6) ∧ exec .reservedKind0111 s = .refused (.reservedKind 7) ∧
    exec .reservedKind1110 s = .refused (.reservedKind 14) ∧ exec .reservedKind1111 s = .refused (.reservedKind 15)

/-! ## Frames on the wire and the command encoder -/

/-- The frame format rows deliver the bytes of their layout to the Byte Source (R51; that a row is a delivery is the
model's choice, log 4), laid out as R82, R85, R86, R87 and R88 say. -/
def Obligations.FrameRowsDeliverTheirLayout : Prop :=
  ∀ (s : State) (f : WireFrame) (hdr payload tail body records : List Byte) (cmd b0 count flags : Byte) (c : Nat),
    exec (.frameGeneral f) s =
      .next { s with q := s.q ++ (f.hdr ++ f.lenField ++ f.cmd ++ f.payload ++ f.ck ++ f.tail) } ∧
    exec (.frameP1 cmd payload) s =
      .next { s with q := s.q ++ ([0xFA, 0xFB, BitVec.ofNat 8 (payload.length + 2), cmd] ++ payload ++
        [BitVec.ofNat 8 ((cmd :: payload).map BitVec.toNat).sum, 0xFC, 0xFD]) } ∧
    exec (.frameP2 hdr c payload tail) s =
      .next { s with q := s.q ++ (hdr ++
        [BitVec.ofNat 8 (payload.length + 2), BitVec.ofNat 8 ((payload.length + 2) / 256),
          BitVec.ofNat 8 c, BitVec.ofNat 8 (c / 256)] ++ payload ++ tail) } ∧
    exec (.frameP3 b0 body) s =
      .next { s with q := s.q ++ ([b0] ++ body ++ [-(BitVec.ofNat 8 (body.map BitVec.toNat).sum)]) } ∧
    exec (.layoutP4 count flags records) s = .next { s with q := s.q ++ ([count, flags] ++ records) }

/-- R85, R86, R87, R271: ENCODE for the parameter lists of P1, P2 and P3 builds exactly their wire layouts; for P3
with every header of one byte or more and a command field of 0, 1 or 2 bytes in either order. -/
def Obligations.EncodeBuildsTheWireLayouts : Prop :=
  ∀ (hdr payload tail body : List Byte) (cmd b0 : Byte) (c : Nat) (hs : List (Option Nat × List Item)) (e : Endian)
    (lo hi : Byte),
    (payload.length ≤ 253 → encodeType (p1Type hs) (some cmd.toNat) payload = some (wireP1 cmd payload)) ∧
    (hdr.length = 4 → tail.length = 4 → c < 65536 → payload.length ≤ 65533 →
      encodeType (p2Type hdr tail hs) (some c) payload = some (wireP2 hdr c payload tail)) ∧
    (body.length = 7 → encodeType (p3Type [b0] 0 .le hs) none body = some (wireP3 b0 body)) ∧
    ((hdr ++ payload).length = 7 →
      encodeType (p3Type (b0 :: hdr) 0 e hs) none payload = some (wireP3 b0 (hdr ++ payload))) ∧
    ((hdr ++ cmd :: payload).length = 7 →
      encodeType (p3Type (b0 :: hdr) 1 e hs) (some cmd.toNat) payload = some (wireP3 b0 (hdr ++ cmd :: payload))) ∧
    ((hdr ++ lo :: hi :: payload).length = 7 →
      encodeType (p3Type (b0 :: hdr) 2 .le hs) (some (lo.toNat + 256 * hi.toNat)) payload =
        some (wireP3 b0 (hdr ++ lo :: hi :: payload)) ∧
      encodeType (p3Type (b0 :: hdr) 2 .be hs) (some (lo.toNat + 256 * hi.toNat)) payload =
        some (wireP3 b0 (hdr ++ hi :: lo :: payload)))

/-- R271: ENCODE is defined exactly within its preconditions, and then has the length the length rule gives. -/
def Obligations.EncodeDefinedWithinPreconditions : Prop :=
  ∀ (t : FrameType) (c : Option Nat) (p : List Byte),
    let size := t.minTotal + p.length
    ((encodeType t c p).isSome = true ↔
      ((match c with
        | none => t.cmdW = 0
        | some v => t.cmdW ≠ 0 ∧ v < 2 ^ (8 * t.cmdW)) ∧
      match t.lenMode with
      | .fixed n => size = n
      | .field w _ base => base ≤ size ∧ size - base < 2 ^ (8 * w))) ∧
    ∀ f, encodeType t c p = some f → f.length = size

/-- R274, R271: XMIT writes the encoded frame and flushes, and is refused outside ENCODE's preconditions. That ENCODE by
itself shows the frame (log 2), that it is refused too outside them, and that a type index the profile lacks is outside
them (log 16) is the model's choice. -/
def Obligations.XmitWritesAndFlushes : Prop :=
  ∀ (s : State) (t : Nat) (c : Option Nat) (p : List Byte),
    (∀ f, encodeRequest s.prof t c p = some f →
      exec (.encodeFrame t c p) s = .next { s with result := .bytes f } ∧
      exec (.xmit t c p) s =
        .next { s with txPending := [], txOut := s.txOut ++ s.txPending ++ f, trace := s.trace ++ [.tx f, .flush] }) ∧
    (encodeRequest s.prof t c p = none →
      exec (.encodeFrame t c p) s = .refused .encodeUndefined ∧ exec (.xmit t c p) s = .refused .encodeUndefined)

/-- R275: what ENCODE builds, fed back in one chunk, yields exactly one `Frame(t, c, p)` and its command's events. -/
def Obligations.RoundTrip : Prop :=
  ∀ (s : State) (t : Nat) (c : Option Nat) (p f : List Byte),
    s.prof.pollBudget = none → s.failed = false → s.hf = false → s.mem = [] → s.q = [] → s.future = [] →
    encodeRequest s.prof t c p = some f → Config.withinCap s.prof.bufCap f.length = true →
      ∃ ty, s.prof.types[t]? = some ty ∧
        exec .poll (s.produce f) =
          .next { s with
            trace := s.trace ++ frameEvents s.prof { t := t, ty := ty, total := f.length, cmd := c, payload := p },
            warn := false }

/-- R132: noise bytes outside FIRST before a valid frame are discarded silently and the frame is decoded, exactly once. -/
def Obligations.Resynchronization : Prop :=
  ∀ (s : State) (g f : List Byte),
    s.prof.pollBudget = none → s.failed = false → s.hf = false → s.mem = [] → s.q = [] → s.future = [] →
    (∀ b ∈ g, isFirst s.prof b = false) → ValidFrame s f →
      ∃ fr, ({ s with mem := memoryOf f, hf := true } : State).front = some fr ∧
        exec .poll (s.produce (g ++ f)) =
          .next { s with trace := s.trace ++ frameEvents s.prof fr, warn := false }

/-- R131: two valid frames in one chunk yield two decoded results in order, with no byte lost or used twice. -/
def Obligations.TwoFramesInOneChunk : Prop :=
  ∀ (s : State) (f g : List Byte),
    s.prof.pollBudget = none → s.failed = false → s.hf = false → s.mem = [] → s.q = [] → s.future = [] →
    ValidFrame s f → ValidFrame s g →
      ∃ fr gr, ({ s with mem := memoryOf f, hf := true } : State).front = some fr ∧
        ({ s with mem := memoryOf g, hf := true } : State).front = some gr ∧
        exec .poll (s.produce (f ++ g)) =
          .next { s with trace := s.trace ++ frameEvents s.prof fr ++ frameEvents s.prof gr, warn := false }

/-- R273: with a map that a BITFIELD may use and that is injective, every meaning of the table can be packed; a packed bit
field decodes to the meaning it was packed with, and the other bits stay. With a table that names a meaning twice nothing
is packed. -/
def Obligations.PackedBitsDecodeBack : Prop :=
  ∀ (prof : Config.Profile) (hi lo m e : Nat) (b b' : Byte),
    (packBits prof hi lo m e b = some b' →
      bitmapEntry prof m (bitRange b' hi lo) = some e ∧
      ∀ j, j < lo ∨ hi < j → b'.getLsbD j = b.getLsbD j) ∧
    ∀ table, prof.bitmaps[m]? = some table →
      (Config.recItemOk prof.bitmaps (.bitfield 0 0 hi lo m) = true → table.Nodup → e ∈ table →
        (packBits prof hi lo m e b).isSome = true) ∧
      (¬ table.Nodup → packBits prof hi lo m e b = none)

/-! ## The synchronous exchange -/

/-- R280, R282: an exchange whose reply is there: the request is written and flushed, the reply is checked and
dispatched, and the exchange is over. A first byte of no type is NOTYPE (log 11), a command with no handler is logged as
unknown (log 10). Bytes that arrive during the wait: see ExchangeWaitsForItsReplyOrAborts. -/
def Obligations.ExchangeDecodesItsReply : Prop :=
  ∀ (s : State) (t : Nat) (c : Option Nat) (p f r rest : List Byte),
    s.xchgAdmitted = true → encodeRequest s.prof t c p = some f →
    s.future = [] → s.q = r ++ rest → r.length = s.prof.replyLen →
      let d : State := { s with q := rest, txPending := [], txOut := s.txOut ++ s.txPending ++ f, pending := none }
      (ftype s.prof r = none → exec (.xchg t c p) s =
        .next { d with trace := s.trace ++ [.tx f, .flush, .warn (.malformed .noType)], warn := true }) ∧
      ∀ i ty, ftype s.prof r = some (i, ty) →
        (∀ cause, frameCause ty r s.prof.replyLen = some cause → exec (.xchg t c p) s =
          .next { d with trace := s.trace ++ [.tx f, .flush, .warn (.malformed cause)], warn := true }) ∧
        (frameCause ty r s.prof.replyLen = none → exec (.xchg t c p) s =
          .next { d with trace := s.trace ++ [.tx f, .flush] ++ frameEvents s.prof (frontOf i ty r s.prof.replyLen),
                         warn := false })

/-- R280, R295: an exchange whose reply stays short times out: the bytes read are dropped, one warning is logged,
nothing is published, and the exchange is over. Bytes that arrive during the wait: see
ExchangeWaitsForItsReplyOrAborts. -/
def Obligations.ExchangeTimesOut : Prop :=
  ∀ (s : State) (t : Nat) (c : Option Nat) (p f : List Byte),
    s.xchgAdmitted = true → encodeRequest s.prof t c p = some f → s.future = [] → s.q.length < s.prof.replyLen →
      exec (.xchg t c p) s =
        .next { s with q := [], txPending := [], txOut := s.txOut ++ s.txPending ++ f, pending := none, warn := true,
                       trace := s.trace ++ [.tx f, .flush, .warn .timeout] }

/-- R279, R280, R282, R295: however bytes arrive during the wait, the loop ends after some number of looks, with the whole
reply or in ABORT, and in ABORT only when `XCHG_TIMEOUT` looks found no byte. With the whole reply it is checked and
dispatched (no type: log 11, no handler: log 10), in ABORT the bytes read are dropped and one warning is logged. One batch
of arrivals for each look is the model's choice (log 6). -/
def Obligations.ExchangeWaitsForItsReplyOrAborts : Prop :=
  ∀ (s : State) (t : Nat) (c : Option Nat) (p f : List Byte),
    (∃ n, n ≤ s.prof.replyLen + s.prof.xchgTimeout ∧ (ReplyComesAt s n ∨ AbortsAt s n)) ∧
    (s.xchgAdmitted = true → encodeRequest s.prof t c p = some f → ∀ n,
      let r := (exchangeLooks n s []).2
      let d : State := { s with
        q := (exchangeLooks n s []).1.q, future := (exchangeLooks n s []).1.future,
        txPending := [], txOut := s.txOut ++ s.txPending ++ f, pending := none }
      (AbortsAt s n → exec (.xchg t c p) s =
        .next { d with trace := s.trace ++ [.tx f, .flush, .warn .timeout], warn := true }) ∧
      (ReplyComesAt s n →
        (ftype s.prof r = none → exec (.xchg t c p) s =
          .next { d with trace := s.trace ++ [.tx f, .flush, .warn (.malformed .noType)], warn := true }) ∧
        ∀ i ty, ftype s.prof r = some (i, ty) →
          (∀ cause, frameCause ty r s.prof.replyLen = some cause → exec (.xchg t c p) s =
            .next { d with trace := s.trace ++ [.tx f, .flush, .warn (.malformed cause)], warn := true }) ∧
          (frameCause ty r s.prof.replyLen = none → exec (.xchg t c p) s =
            .next { d with trace := s.trace ++ [.tx f, .flush] ++ frameEvents s.prof (frontOf i ty r s.prof.replyLen),
                           warn := false })))

/-- R279, R280, R281: an admitted exchange always ends, however the bytes arrive, in IDLE with nothing pending, and leaves
the buffer and `hf` alone; one that is not admitted is refused. That one outside ENCODE's preconditions is refused too is
the model's choice (log 16). -/
def Obligations.ExchangeAlwaysEnds : Prop :=
  ∀ (s : State) (t : Nat) (c : Option Nat) (p : List Byte),
    (s.xchg ≠ .idle ∨ s.hf = true ∨ s.len ≠ 0 → exec (.xchg t c p) s = .refused .xchgNotAdmitted) ∧
    (s.xchg = .idle → s.hf = false → s.len = 0 → ∀ f, encodeRequest s.prof t c p = some f →
      ∃ t', exec (.xchg t c p) s = .next t' ∧ t'.xchg = .idle ∧ t'.pending = none ∧ t'.mem = s.mem ∧ t'.hf = false ∧
        t'.failed = s.failed ∧ t'.txPending = [] ∧ t'.txOut = s.txOut ++ s.txPending ++ f ∧
        s.trace ++ [.tx f, .flush] <+: t'.trace ∧ t'.stream <:+ s.stream) ∧
    (s.xchg = .idle → s.hf = false → s.len = 0 → encodeRequest s.prof t c p = none →
      exec (.xchg t c p) s = .refused .encodeUndefined)

/-! ## The other host operations, reset, status -/

/-- R330: RESET gives the reset values to everything it names and to nothing else, in any state. -/
def Obligations.ResetWritesTheResetValues : Prop :=
  ∀ s : State,
    exec .reset s =
      .next { s with mem := [], hf := false, warn := false, failed := false, xchg := .idle, pending := none }

/-- R331: MARK_FAILED sets `failed` and nothing else, NOP does nothing, the two reserved codes have no step, and no
operation but RESET clears `failed`. -/
def Obligations.NopMarkFailedAndReservedCodes : Prop :=
  ∀ s : State,
    exec .nop s = .next s ∧ exec .markFailed s = .next { s with failed := true } ∧
    exec .reservedHost110 s = .refused (.reservedHost 6) ∧ exec .reservedHost111 s = .refused (.reservedHost 7) ∧
    ∀ i t, exec i s = .next t → s.failed = true → t.failed = false → i = .reset

/-- R30: `failed` is set by MARK_FAILED alone and cleared by RESET alone, and while it is set every POLL performs HALT
and nothing else (arrivals: the model's choice, log 6). -/
def Obligations.FailedSetAndClearedOnlyByHost : Prop :=
  ∀ (i : Instr) (s t : State), exec i s = .next t →
    (s.failed = false → t.failed = true → i = .markFailed) ∧ (s.failed = true → t.failed = false → i = .reset) ∧
    (s.failed = true → (microStep s).1 = .halt ∧ exec .poll s = .next s.arrive)

/-- R38: the values the spec gives for reset. -/
def Obligations.ResetStateHasTheSpecValues : Prop :=
  State.reset.buf = [] ∧ State.reset.len = 0 ∧ State.reset.hf = false ∧ State.reset.warn = false ∧
  State.reset.failed = false ∧ State.reset.xchg = .idle ∧ State.reset.pending = none ∧ State.reset.status = 0 ∧
  State.reset.trace = [] ∧ ∀ a, State.reset.readByte a = none

/-- R32: the bits of STATUS. -/
def Obligations.StatusBits : Prop :=
  ∀ s : State,
    s.status.getLsbD 0 = s.hf ∧ s.status.getLsbD 1 = s.warn ∧ s.status.getLsbD 2 = s.failed ∧
    s.status.getLsbD 3 = decide (s.xchg = .sent) ∧ ∀ j, 4 ≤ j → s.status.getLsbD j = false

/-! ## Frames and invariants over all operations -/

/-- R57, R58, R59, R24: what each operation that writes the buffer does to each of its bytes, and that no other operation
writes it. -/
def Obligations.BufferBytesFrame : Prop :=
  ∀ (i : Instr) (s t : State), exec i s = .next t →
    (i = .sync ∨ i = .append →
      t.len = s.len + 1 ∧ t.readByte s.len = s.peek ∧ ∀ a, a ≠ s.len → t.readByte a = s.readByte a) ∧
    (i = .dispatch ∨ i = .unknown →
      ∃ n, total s.prof s.buf = some n ∧ n ≤ s.len ∧ t.len = s.len - n ∧
        ∀ a, t.readByte a = s.readByte (a + n)) ∧
    (i = .reject ∨ i = .reset → t.len = 0 ∧ ∀ a, t.readByte a = none) ∧
    (i ≠ .sync → i ≠ .append → i ≠ .dispatch → i ≠ .unknown → i ≠ .reject → i ≠ .reset → i ≠ .poll →
      t.mem = s.mem ∧ ∀ a, t.readByte a = s.readByte a)

/-- R32, R36, R22: no operation writes the profile, and the trace is only appended to. -/
def Obligations.ProfileConstantAndTraceGrows : Prop :=
  ∀ s t : State, step s = .next t → t.profile = s.profile ∧ s.trace <+: t.trace

/-- R51, R54, R39: input bytes are taken from the head only, in arrival order, each once, and no operation adds any but a
FRAME row, which is a delivery of the producer (the model's choice, log 4): its bytes land behind those in the queue and
nothing is taken. -/
def Obligations.InputIsTakenInOrder : Prop :=
  ∀ (i : Instr) (s t : State), exec i s = .next t →
    t.stream <:+ s.stream ∨
    (((∃ f, i = .frameGeneral f) ∨ (∃ c p, i = .frameP1 c p) ∨ (∃ h c p e, i = .frameP2 h c p e) ∨
        (∃ b0 l, i = .frameP3 b0 l) ∨ ∃ n g l, i = .layoutP4 n g l) ∧
      ∃ w, t = { s with q := s.q ++ w })

/-- R29: `warn` is written by REJECT, DISPATCH, UNKNOWN (in a POLL too), by an exchange and by RESET, and by nothing
else. -/
def Obligations.WarnWrittenOnlyWhereTheSpecSays : Prop :=
  ∀ (i : Instr) (s t : State), exec i s = .next t →
    (i = .reject → t.warn = true) ∧ (i = .dispatch ∨ i = .unknown ∨ i = .reset → t.warn = false) ∧
    (t.warn ≠ s.warn →
      i = .reject ∨ i = .dispatch ∨ i = .unknown ∨ i = .reset ∨ i = .poll ∨ ∃ n c p, i = .xchg n c p)

/-- The invariant holds at reset (R28, R38). -/
def Obligations.InvariantAtReset : Prop := Inv State.reset

/-- R24, R28, R33, R131: every step keeps the invariant. -/
def Obligations.InvariantKeptByEveryStep : Prop :=
  ∀ s t : State, Inv s → step s = .next t → Inv t

/-! ## Encoding -/

/-- A step takes the oldest word at the port and runs the operation it decodes to; with nothing presented it does nothing
(log 3). -/
def Obligations.StepRunsTheDecodedOperation : Prop :=
  ∀ (s : State) (w : List Byte) (r : List (List Byte)),
    (s.port = [] → step s = .next s) ∧
    (s.port = w :: r →
      (∀ i, decode w = some i → i.wf = true ∧ step s = exec i { s with port := r }) ∧
      (decode w = none → step s = .refused .undecodable))

/-- Words written out from the tables of R102, R105, R106, R108, R85 and R86 decode to the operations they stand for. -/
def Obligations.WordsFromTheSpecDecode : Prop :=
  decodeTableWord 7 0x28 = some .append ∧ decodeTableWord 7 0b0111011 = some .dispatch ∧
  decodeTableWord 4 0b1010 = some (.rdI16le [] 0) ∧ decodeTableWord 4 0b0110 = some .reservedKind0110 ∧
  decodeTableWord 2 0b10 = some (.ckNeg8 []) ∧ decodeTableWord 3 0b011 = some .markFailed ∧
  decode [1, 5, 0xFA, 0xFB, 0x03, 0x11, 0x77, 0x88, 0xFC, 0xFD] = some (.frameP1 0x11 [0x77]) ∧
  decode [1, 5, 0xFA, 0xFB, 0x03, 0x11, 0x77, 0x89, 0xFC, 0xFD] = none

/-- Decoding the word of a well-formed operation gives the operation back, with every operand: no bit is dropped (the
layout of the side port is the model's choice, log 5). -/
def Obligations.DecodeEncodeAgree : Prop :=
  ∀ i : Instr, i.wf = true → decode (encode i) = some i
end

