-- ==== Sys2Proof/Laws/Encoding.lean ====
section
/-! SUPPORT. The side port: what the decoder's readers give on what the encoder's writers wrote, reader by reader. -/

namespace Sys2Proof

theorem fits16_iff {n : Nat} : fits16 n = true ↔ n < 65536 := by simp [fits16]

theorem get8_put8 {n : Nat} (h : n < 256) (l : List Byte) : get8 (put8 n ++ l) = some (n, l) := by
  simp [get8, put8, Nat.mod_eq_of_lt h]

theorem get16_put16 {n : Nat} (h : n < 65536) (l : List Byte) : get16 (put16 n ++ l) = some (n, l) := by
  simp [get16, put16]
  omega

theorem getStr_putStr {p : List Byte} (h : strOk p = true) (l : List Byte) : getStr (putStr p ++ l) = some (p, l) := by
  have h' := fits16_iff.mp h
  simp [getStr, putStr, get16_put16 h']

theorem getOpt_putOpt {o : Option Nat} (h : optOk o = true) (l : List Byte) : getOpt (putOpt o ++ l) = some (o, l) := by
  cases o with
  | none => simp [getOpt, putOpt, get8_put8]
  | some n => simp [getOpt, putOpt, get8_put8, get16_put16 (fits16_iff.mp h)]

theorem getCmd_putCmd {o : Option Nat} (h : optOk o = true) (l : List Byte) : getCmd (putCmd o ++ l) = some (o, l) := by
  cases o with
  | none => simp [getCmd, putCmd, get8_put8]
  | some n => simp [getCmd, putCmd, get8_put8, get16_put16 (fits16_iff.mp h)]

theorem kindOfCode_code (k : Kind) : kindOfCode k.code = some k := by cases k <;> rfl

theorem getKind_putKind (k : Kind) (l : List Byte) : getKind (put8 k.code ++ l) = some (k, l) := by
  have h : k.code < 256 := by cases k <;> decide
  simp [getKind, get8_put8 h, kindOfCode_code]

theorem getRecItem_putRecItem {i : RecItem} (h : i.wf = true) (l : List Byte) :
    getRecItem (putRecItem i ++ l) = some (i, l) := by
  cases i with
  | field sink off kind scale =>
    simp only [RecItem.wf, Bool.and_eq_true, fits16_iff] at h
    simp [getRecItem, putRecItem, get8_put8, get16_put16 h.1.1, get16_put16 h.1.2, getKind_putKind, getOpt_putOpt h.2]
  | bitfield sink off hi lo m =>
    simp only [RecItem.wf, Bool.and_eq_true, fits16_iff, decide_eq_true_eq] at h
    obtain ⟨⟨⟨⟨h1, h2⟩, h3⟩, h4⟩, h5⟩ := h
    have h3' : hi < 256 := by omega
    have h4' : lo < 256 := by omega
    simp [getRecItem, putRecItem, get8_put8 h3', get8_put8 h4', get8_put8 (n := 1), get16_put16 h1, get16_put16 h2,
      get16_put16 h5]

theorem getRecItems_putRecItems {is : List RecItem} (h : is.all RecItem.wf = true) (l : List Byte) :
    getRecItems is.length (is.flatMap putRecItem ++ l) = some (is, l) := by
  induction is with
  | nil => rfl
  | cons i is ih =>
    simp only [List.all_cons, Bool.and_eq_true] at h
    simp [getRecItems, getRecItem_putRecItem h.1, ih h.2]

theorem getTag_putTag {t : Tag} (h : t.wf = true) (l : List Byte) : getTag (putTag t ++ l) = some (t, l) := by
  cases t with
  | factoryReset => simp [getTag, putTag, get16_put16]
  | other id => simp [getTag, putTag, get16_put16 (fits16_iff.mp h)]

theorem getN_append (n : Nat) (p l : List Byte) (h : p.length = n) : getN n (p ++ l) = some (p, l) := by
  subst h
  simp [getN]

end Sys2Proof
end

