-- ==== Sys2Proof/Laws/State.lean ====
section
/-! SUPPORT. One lemma per field per update of the state, true by rfl, so that no later proof unfolds an update; and what
`prof` and `buf` read after an update that does not write them. -/

namespace Sys2Proof.Machine

variable (s : State)

/-! ## setBuf -/

@[simp] theorem State.setBuf_profile (l : List Byte) : (s.setBuf l).profile = s.profile := rfl

@[simp] theorem State.setBuf_mem (l : List Byte) : (s.setBuf l).mem = memoryOf l := rfl

@[simp] theorem State.setBuf_hf (l : List Byte) : (s.setBuf l).hf = s.hf := rfl

@[simp] theorem State.setBuf_warn (l : List Byte) : (s.setBuf l).warn = s.warn := rfl

@[simp] theorem State.setBuf_failed (l : List Byte) : (s.setBuf l).failed = s.failed := rfl

@[simp] theorem State.setBuf_xchg (l : List Byte) : (s.setBuf l).xchg = s.xchg := rfl

@[simp] theorem State.setBuf_pending (l : List Byte) : (s.setBuf l).pending = s.pending := rfl

@[simp] theorem State.setBuf_q (l : List Byte) : (s.setBuf l).q = s.q := rfl

@[simp] theorem State.setBuf_txPending (l : List Byte) : (s.setBuf l).txPending = s.txPending := rfl

@[simp] theorem State.setBuf_txOut (l : List Byte) : (s.setBuf l).txOut = s.txOut := rfl

@[simp] theorem State.setBuf_trace (l : List Byte) : (s.setBuf l).trace = s.trace := rfl

@[simp] theorem State.setBuf_port (l : List Byte) : (s.setBuf l).port = s.port := rfl

@[simp] theorem State.setBuf_future (l : List Byte) : (s.setBuf l).future = s.future := rfl

@[simp] theorem State.setBuf_result (l : List Byte) : (s.setBuf l).result = s.result := rfl

@[simp] theorem State.setBuf_prof (l : List Byte) : (s.setBuf l).prof = s.prof := rfl

/-! ## memAppend -/

@[simp] theorem State.memAppend_profile (b : Byte) : (s.memAppend b).profile = s.profile := rfl

@[simp] theorem State.memAppend_mem (b : Byte) : (s.memAppend b).mem = memoryOf (s.buf ++ [b]) := rfl

@[simp] theorem State.memAppend_hf (b : Byte) : (s.memAppend b).hf = s.hf := rfl

@[simp] theorem State.memAppend_warn (b : Byte) : (s.memAppend b).warn = s.warn := rfl

@[simp] theorem State.memAppend_failed (b : Byte) : (s.memAppend b).failed = s.failed := rfl

@[simp] theorem State.memAppend_xchg (b : Byte) : (s.memAppend b).xchg = s.xchg := rfl

@[simp] theorem State.memAppend_pending (b : Byte) : (s.memAppend b).pending = s.pending := rfl

@[simp] theorem State.memAppend_q (b : Byte) : (s.memAppend b).q = s.q := rfl

@[simp] theorem State.memAppend_txPending (b : Byte) : (s.memAppend b).txPending = s.txPending := rfl

@[simp] theorem State.memAppend_txOut (b : Byte) : (s.memAppend b).txOut = s.txOut := rfl

@[simp] theorem State.memAppend_trace (b : Byte) : (s.memAppend b).trace = s.trace := rfl

@[simp] theorem State.memAppend_port (b : Byte) : (s.memAppend b).port = s.port := rfl

@[simp] theorem State.memAppend_future (b : Byte) : (s.memAppend b).future = s.future := rfl

@[simp] theorem State.memAppend_result (b : Byte) : (s.memAppend b).result = s.result := rfl

@[simp] theorem State.memAppend_prof (b : Byte) : (s.memAppend b).prof = s.prof := rfl

/-! ## eraseFront -/

@[simp] theorem State.eraseFront_profile (k : Nat) : (s.eraseFront k).profile = s.profile := rfl

@[simp] theorem State.eraseFront_mem (k : Nat) : (s.eraseFront k).mem = memoryOf (s.buf.drop k) := rfl

@[simp] theorem State.eraseFront_hf (k : Nat) : (s.eraseFront k).hf = s.hf := rfl

@[simp] theorem State.eraseFront_warn (k : Nat) : (s.eraseFront k).warn = s.warn := rfl

@[simp] theorem State.eraseFront_failed (k : Nat) : (s.eraseFront k).failed = s.failed := rfl

@[simp] theorem State.eraseFront_xchg (k : Nat) : (s.eraseFront k).xchg = s.xchg := rfl

@[simp] theorem State.eraseFront_pending (k : Nat) : (s.eraseFront k).pending = s.pending := rfl

@[simp] theorem State.eraseFront_q (k : Nat) : (s.eraseFront k).q = s.q := rfl

@[simp] theorem State.eraseFront_txPending (k : Nat) : (s.eraseFront k).txPending = s.txPending := rfl

@[simp] theorem State.eraseFront_txOut (k : Nat) : (s.eraseFront k).txOut = s.txOut := rfl

@[simp] theorem State.eraseFront_trace (k : Nat) : (s.eraseFront k).trace = s.trace := rfl

@[simp] theorem State.eraseFront_port (k : Nat) : (s.eraseFront k).port = s.port := rfl

@[simp] theorem State.eraseFront_future (k : Nat) : (s.eraseFront k).future = s.future := rfl

@[simp] theorem State.eraseFront_result (k : Nat) : (s.eraseFront k).result = s.result := rfl

@[simp] theorem State.eraseFront_prof (k : Nat) : (s.eraseFront k).prof = s.prof := rfl

/-! ## clear -/

@[simp] theorem State.clear_profile : (s.clear).profile = s.profile := rfl

@[simp] theorem State.clear_mem : (s.clear).mem = [] := rfl

@[simp] theorem State.clear_hf : (s.clear).hf = s.hf := rfl

@[simp] theorem State.clear_warn : (s.clear).warn = s.warn := rfl

@[simp] theorem State.clear_failed : (s.clear).failed = s.failed := rfl

@[simp] theorem State.clear_xchg : (s.clear).xchg = s.xchg := rfl

@[simp] theorem State.clear_pending : (s.clear).pending = s.pending := rfl

@[simp] theorem State.clear_q : (s.clear).q = s.q := rfl

@[simp] theorem State.clear_txPending : (s.clear).txPending = s.txPending := rfl

@[simp] theorem State.clear_txOut : (s.clear).txOut = s.txOut := rfl

@[simp] theorem State.clear_trace : (s.clear).trace = s.trace := rfl

@[simp] theorem State.clear_port : (s.clear).port = s.port := rfl

@[simp] theorem State.clear_future : (s.clear).future = s.future := rfl

@[simp] theorem State.clear_result : (s.clear).result = s.result := rfl

@[simp] theorem State.clear_prof : (s.clear).prof = s.prof := rfl

/-! ## produce -/

@[simp] theorem State.produce_profile (l : List Byte) : (s.produce l).profile = s.profile := rfl

@[simp] theorem State.produce_mem (l : List Byte) : (s.produce l).mem = s.mem := rfl

@[simp] theorem State.produce_hf (l : List Byte) : (s.produce l).hf = s.hf := rfl

@[simp] theorem State.produce_warn (l : List Byte) : (s.produce l).warn = s.warn := rfl

@[simp] theorem State.produce_failed (l : List Byte) : (s.produce l).failed = s.failed := rfl

@[simp] theorem State.produce_xchg (l : List Byte) : (s.produce l).xchg = s.xchg := rfl

@[simp] theorem State.produce_pending (l : List Byte) : (s.produce l).pending = s.pending := rfl

@[simp] theorem State.produce_q (l : List Byte) : (s.produce l).q = s.q ++ l := rfl

@[simp] theorem State.produce_txPending (l : List Byte) : (s.produce l).txPending = s.txPending := rfl

@[simp] theorem State.produce_txOut (l : List Byte) : (s.produce l).txOut = s.txOut := rfl

@[simp] theorem State.produce_trace (l : List Byte) : (s.produce l).trace = s.trace := rfl

@[simp] theorem State.produce_port (l : List Byte) : (s.produce l).port = s.port := rfl

@[simp] theorem State.produce_future (l : List Byte) : (s.produce l).future = s.future := rfl

@[simp] theorem State.produce_result (l : List Byte) : (s.produce l).result = s.result := rfl

@[simp] theorem State.produce_prof (l : List Byte) : (s.produce l).prof = s.prof := rfl

@[simp] theorem State.produce_buf (l : List Byte) : (s.produce l).buf = s.buf := rfl

/-! ## emit -/

@[simp] theorem State.emit_profile (e : Event) : (s.emit e).profile = s.profile := rfl

@[simp] theorem State.emit_mem (e : Event) : (s.emit e).mem = s.mem := rfl

@[simp] theorem State.emit_hf (e : Event) : (s.emit e).hf = s.hf := rfl

@[simp] theorem State.emit_warn (e : Event) : (s.emit e).warn = s.warn := rfl

@[simp] theorem State.emit_failed (e : Event) : (s.emit e).failed = s.failed := rfl

@[simp] theorem State.emit_xchg (e : Event) : (s.emit e).xchg = s.xchg := rfl

@[simp] theorem State.emit_pending (e : Event) : (s.emit e).pending = s.pending := rfl

@[simp] theorem State.emit_q (e : Event) : (s.emit e).q = s.q := rfl

@[simp] theorem State.emit_txPending (e : Event) : (s.emit e).txPending = s.txPending := rfl

@[simp] theorem State.emit_txOut (e : Event) : (s.emit e).txOut = s.txOut := rfl

@[simp] theorem State.emit_trace (e : Event) : (s.emit e).trace = s.trace ++ [e] := rfl

@[simp] theorem State.emit_port (e : Event) : (s.emit e).port = s.port := rfl

@[simp] theorem State.emit_future (e : Event) : (s.emit e).future = s.future := rfl

@[simp] theorem State.emit_result (e : Event) : (s.emit e).result = s.result := rfl

@[simp] theorem State.emit_prof (e : Event) : (s.emit e).prof = s.prof := rfl

@[simp] theorem State.emit_buf (e : Event) : (s.emit e).buf = s.buf := rfl

/-! ## emitAll -/

@[simp] theorem State.emitAll_profile (es : List Event) : (s.emitAll es).profile = s.profile := rfl

@[simp] theorem State.emitAll_mem (es : List Event) : (s.emitAll es).mem = s.mem := rfl

@[simp] theorem State.emitAll_hf (es : List Event) : (s.emitAll es).hf = s.hf := rfl

@[simp] theorem State.emitAll_warn (es : List Event) : (s.emitAll es).warn = s.warn := rfl

@[simp] theorem State.emitAll_failed (es : List Event) : (s.emitAll es).failed = s.failed := rfl

@[simp] theorem State.emitAll_xchg (es : List Event) : (s.emitAll es).xchg = s.xchg := rfl

@[simp] theorem State.emitAll_pending (es : List Event) : (s.emitAll es).pending = s.pending := rfl

@[simp] theorem State.emitAll_q (es : List Event) : (s.emitAll es).q = s.q := rfl

@[simp] theorem State.emitAll_txPending (es : List Event) : (s.emitAll es).txPending = s.txPending := rfl

@[simp] theorem State.emitAll_txOut (es : List Event) : (s.emitAll es).txOut = s.txOut := rfl

@[simp] theorem State.emitAll_trace (es : List Event) : (s.emitAll es).trace = s.trace ++ es := rfl

@[simp] theorem State.emitAll_port (es : List Event) : (s.emitAll es).port = s.port := rfl

@[simp] theorem State.emitAll_future (es : List Event) : (s.emitAll es).future = s.future := rfl

@[simp] theorem State.emitAll_result (es : List Event) : (s.emitAll es).result = s.result := rfl

@[simp] theorem State.emitAll_prof (es : List Event) : (s.emitAll es).prof = s.prof := rfl

@[simp] theorem State.emitAll_buf (es : List Event) : (s.emitAll es).buf = s.buf := rfl

/-! ## txWrite -/

@[simp] theorem State.txWrite_profile (f : List Byte) : (s.txWrite f).profile = s.profile := rfl

@[simp] theorem State.txWrite_mem (f : List Byte) : (s.txWrite f).mem = s.mem := rfl

@[simp] theorem State.txWrite_hf (f : List Byte) : (s.txWrite f).hf = s.hf := rfl

@[simp] theorem State.txWrite_warn (f : List Byte) : (s.txWrite f).warn = s.warn := rfl

@[simp] theorem State.txWrite_failed (f : List Byte) : (s.txWrite f).failed = s.failed := rfl

@[simp] theorem State.txWrite_xchg (f : List Byte) : (s.txWrite f).xchg = s.xchg := rfl

@[simp] theorem State.txWrite_pending (f : List Byte) : (s.txWrite f).pending = s.pending := rfl

@[simp] theorem State.txWrite_q (f : List Byte) : (s.txWrite f).q = s.q := rfl

@[simp] theorem State.txWrite_txPending (f : List Byte) : (s.txWrite f).txPending = s.txPending ++ f := rfl

@[simp] theorem State.txWrite_txOut (f : List Byte) : (s.txWrite f).txOut = s.txOut := rfl

@[simp] theorem State.txWrite_trace (f : List Byte) : (s.txWrite f).trace = s.trace ++ [.tx f] := rfl

@[simp] theorem State.txWrite_port (f : List Byte) : (s.txWrite f).port = s.port := rfl

@[simp] theorem State.txWrite_future (f : List Byte) : (s.txWrite f).future = s.future := rfl

@[simp] theorem State.txWrite_result (f : List Byte) : (s.txWrite f).result = s.result := rfl

@[simp] theorem State.txWrite_prof (f : List Byte) : (s.txWrite f).prof = s.prof := rfl

@[simp] theorem State.txWrite_buf (f : List Byte) : (s.txWrite f).buf = s.buf := rfl

/-! ## txFlush -/

@[simp] theorem State.txFlush_profile : (s.txFlush).profile = s.profile := rfl

@[simp] theorem State.txFlush_mem : (s.txFlush).mem = s.mem := rfl

@[simp] theorem State.txFlush_hf : (s.txFlush).hf = s.hf := rfl

@[simp] theorem State.txFlush_warn : (s.txFlush).warn = s.warn := rfl

@[simp] theorem State.txFlush_failed : (s.txFlush).failed = s.failed := rfl

@[simp] theorem State.txFlush_xchg : (s.txFlush).xchg = s.xchg := rfl

@[simp] theorem State.txFlush_pending : (s.txFlush).pending = s.pending := rfl

@[simp] theorem State.txFlush_q : (s.txFlush).q = s.q := rfl

@[simp] theorem State.txFlush_txPending : (s.txFlush).txPending = [] := rfl

@[simp] theorem State.txFlush_txOut : (s.txFlush).txOut = s.txOut ++ s.txPending := rfl

@[simp] theorem State.txFlush_trace : (s.txFlush).trace = s.trace ++ [.flush] := rfl

@[simp] theorem State.txFlush_port : (s.txFlush).port = s.port := rfl

@[simp] theorem State.txFlush_future : (s.txFlush).future = s.future := rfl

@[simp] theorem State.txFlush_result : (s.txFlush).result = s.result := rfl

@[simp] theorem State.txFlush_prof : (s.txFlush).prof = s.prof := rfl

@[simp] theorem State.txFlush_buf : (s.txFlush).buf = s.buf := rfl

/-! ## setHf -/

@[simp] theorem State.setHf_profile (v : Bool) : (s.setHf v).profile = s.profile := rfl

@[simp] theorem State.setHf_mem (v : Bool) : (s.setHf v).mem = s.mem := rfl

@[simp] theorem State.setHf_hf (v : Bool) : (s.setHf v).hf = v := rfl

@[simp] theorem State.setHf_warn (v : Bool) : (s.setHf v).warn = s.warn := rfl

@[simp] theorem State.setHf_failed (v : Bool) : (s.setHf v).failed = s.failed := rfl

@[simp] theorem State.setHf_xchg (v : Bool) : (s.setHf v).xchg = s.xchg := rfl

@[simp] theorem State.setHf_pending (v : Bool) : (s.setHf v).pending = s.pending := rfl

@[simp] theorem State.setHf_q (v : Bool) : (s.setHf v).q = s.q := rfl

@[simp] theorem State.setHf_txPending (v : Bool) : (s.setHf v).txPending = s.txPending := rfl

@[simp] theorem State.setHf_txOut (v : Bool) : (s.setHf v).txOut = s.txOut := rfl

@[simp] theorem State.setHf_trace (v : Bool) : (s.setHf v).trace = s.trace := rfl

@[simp] theorem State.setHf_port (v : Bool) : (s.setHf v).port = s.port := rfl

@[simp] theorem State.setHf_future (v : Bool) : (s.setHf v).future = s.future := rfl

@[simp] theorem State.setHf_result (v : Bool) : (s.setHf v).result = s.result := rfl

@[simp] theorem State.setHf_prof (v : Bool) : (s.setHf v).prof = s.prof := rfl

@[simp] theorem State.setHf_buf (v : Bool) : (s.setHf v).buf = s.buf := rfl

/-! ## setWarn -/

@[simp] theorem State.setWarn_profile (v : Bool) : (s.setWarn v).profile = s.profile := rfl

@[simp] theorem State.setWarn_mem (v : Bool) : (s.setWarn v).mem = s.mem := rfl

@[simp] theorem State.setWarn_hf (v : Bool) : (s.setWarn v).hf = s.hf := rfl

@[simp] theorem State.setWarn_warn (v : Bool) : (s.setWarn v).warn = v := rfl

@[simp] theorem State.setWarn_failed (v : Bool) : (s.setWarn v).failed = s.failed := rfl

@[simp] theorem State.setWarn_xchg (v : Bool) : (s.setWarn v).xchg = s.xchg := rfl

@[simp] theorem State.setWarn_pending (v : Bool) : (s.setWarn v).pending = s.pending := rfl

@[simp] theorem State.setWarn_q (v : Bool) : (s.setWarn v).q = s.q := rfl

@[simp] theorem State.setWarn_txPending (v : Bool) : (s.setWarn v).txPending = s.txPending := rfl

@[simp] theorem State.setWarn_txOut (v : Bool) : (s.setWarn v).txOut = s.txOut := rfl

@[simp] theorem State.setWarn_trace (v : Bool) : (s.setWarn v).trace = s.trace := rfl

@[simp] theorem State.setWarn_port (v : Bool) : (s.setWarn v).port = s.port := rfl

@[simp] theorem State.setWarn_future (v : Bool) : (s.setWarn v).future = s.future := rfl

@[simp] theorem State.setWarn_result (v : Bool) : (s.setWarn v).result = s.result := rfl

@[simp] theorem State.setWarn_prof (v : Bool) : (s.setWarn v).prof = s.prof := rfl

@[simp] theorem State.setWarn_buf (v : Bool) : (s.setWarn v).buf = s.buf := rfl

/-! ## setFailed -/

@[simp] theorem State.setFailed_profile (v : Bool) : (s.setFailed v).profile = s.profile := rfl

@[simp] theorem State.setFailed_mem (v : Bool) : (s.setFailed v).mem = s.mem := rfl

@[simp] theorem State.setFailed_hf (v : Bool) : (s.setFailed v).hf = s.hf := rfl

@[simp] theorem State.setFailed_warn (v : Bool) : (s.setFailed v).warn = s.warn := rfl

@[simp] theorem State.setFailed_failed (v : Bool) : (s.setFailed v).failed = v := rfl

@[simp] theorem State.setFailed_xchg (v : Bool) : (s.setFailed v).xchg = s.xchg := rfl

@[simp] theorem State.setFailed_pending (v : Bool) : (s.setFailed v).pending = s.pending := rfl

@[simp] theorem State.setFailed_q (v : Bool) : (s.setFailed v).q = s.q := rfl

@[simp] theorem State.setFailed_txPending (v : Bool) : (s.setFailed v).txPending = s.txPending := rfl

@[simp] theorem State.setFailed_txOut (v : Bool) : (s.setFailed v).txOut = s.txOut := rfl

@[simp] theorem State.setFailed_trace (v : Bool) : (s.setFailed v).trace = s.trace := rfl

@[simp] theorem State.setFailed_port (v : Bool) : (s.setFailed v).port = s.port := rfl

@[simp] theorem State.setFailed_future (v : Bool) : (s.setFailed v).future = s.future := rfl

@[simp] theorem State.setFailed_result (v : Bool) : (s.setFailed v).result = s.result := rfl

@[simp] theorem State.setFailed_prof (v : Bool) : (s.setFailed v).prof = s.prof := rfl

@[simp] theorem State.setFailed_buf (v : Bool) : (s.setFailed v).buf = s.buf := rfl

/-! ## endExchange -/

@[simp] theorem State.endExchange_profile : (s.endExchange).profile = s.profile := rfl

@[simp] theorem State.endExchange_mem : (s.endExchange).mem = s.mem := rfl

@[simp] theorem State.endExchange_hf : (s.endExchange).hf = s.hf := rfl

@[simp] theorem State.endExchange_warn : (s.endExchange).warn = s.warn := rfl

@[simp] theorem State.endExchange_failed : (s.endExchange).failed = s.failed := rfl

@[simp] theorem State.endExchange_xchg : (s.endExchange).xchg = .idle := rfl

@[simp] theorem State.endExchange_pending : (s.endExchange).pending = none := rfl

@[simp] theorem State.endExchange_q : (s.endExchange).q = s.q := rfl

@[simp] theorem State.endExchange_txPending : (s.endExchange).txPending = s.txPending := rfl

@[simp] theorem State.endExchange_txOut : (s.endExchange).txOut = s.txOut := rfl

@[simp] theorem State.endExchange_trace : (s.endExchange).trace = s.trace := rfl

@[simp] theorem State.endExchange_port : (s.endExchange).port = s.port := rfl

@[simp] theorem State.endExchange_future : (s.endExchange).future = s.future := rfl

@[simp] theorem State.endExchange_result : (s.endExchange).result = s.result := rfl

@[simp] theorem State.endExchange_prof : (s.endExchange).prof = s.prof := rfl

@[simp] theorem State.endExchange_buf : (s.endExchange).buf = s.buf := rfl

/-! ## beginExchange -/

@[simp] theorem State.beginExchange_profile (c : Option Nat) (p : List Byte) : (s.beginExchange c p).profile = s.profile := rfl

@[simp] theorem State.beginExchange_mem (c : Option Nat) (p : List Byte) : (s.beginExchange c p).mem = s.mem := rfl

@[simp] theorem State.beginExchange_hf (c : Option Nat) (p : List Byte) : (s.beginExchange c p).hf = s.hf := rfl

@[simp] theorem State.beginExchange_warn (c : Option Nat) (p : List Byte) : (s.beginExchange c p).warn = s.warn := rfl

@[simp] theorem State.beginExchange_failed (c : Option Nat) (p : List Byte) : (s.beginExchange c p).failed = s.failed := rfl

@[simp] theorem State.beginExchange_xchg (c : Option Nat) (p : List Byte) : (s.beginExchange c p).xchg = .sent := rfl

@[simp] theorem State.beginExchange_pending (c : Option Nat) (p : List Byte) : (s.beginExchange c p).pending = some { cmd := c, payload := p } := rfl

@[simp] theorem State.beginExchange_q (c : Option Nat) (p : List Byte) : (s.beginExchange c p).q = s.q := rfl

@[simp] theorem State.beginExchange_txPending (c : Option Nat) (p : List Byte) : (s.beginExchange c p).txPending = s.txPending := rfl

@[simp] theorem State.beginExchange_txOut (c : Option Nat) (p : List Byte) : (s.beginExchange c p).txOut = s.txOut := rfl

@[simp] theorem State.beginExchange_trace (c : Option Nat) (p : List Byte) : (s.beginExchange c p).trace = s.trace := rfl

@[simp] theorem State.beginExchange_port (c : Option Nat) (p : List Byte) : (s.beginExchange c p).port = s.port := rfl

@[simp] theorem State.beginExchange_future (c : Option Nat) (p : List Byte) : (s.beginExchange c p).future = s.future := rfl

@[simp] theorem State.beginExchange_result (c : Option Nat) (p : List Byte) : (s.beginExchange c p).result = s.result := rfl

@[simp] theorem State.beginExchange_prof (c : Option Nat) (p : List Byte) : (s.beginExchange c p).prof = s.prof := rfl

@[simp] theorem State.beginExchange_buf (c : Option Nat) (p : List Byte) : (s.beginExchange c p).buf = s.buf := rfl

/-! ## showInt -/

@[simp] theorem State.showInt_profile (v : Option Int) : (s.showInt v).profile = s.profile := rfl

@[simp] theorem State.showInt_mem (v : Option Int) : (s.showInt v).mem = s.mem := rfl

@[simp] theorem State.showInt_hf (v : Option Int) : (s.showInt v).hf = s.hf := rfl

@[simp] theorem State.showInt_warn (v : Option Int) : (s.showInt v).warn = s.warn := rfl

@[simp] theorem State.showInt_failed (v : Option Int) : (s.showInt v).failed = s.failed := rfl

@[simp] theorem State.showInt_xchg (v : Option Int) : (s.showInt v).xchg = s.xchg := rfl

@[simp] theorem State.showInt_pending (v : Option Int) : (s.showInt v).pending = s.pending := rfl

@[simp] theorem State.showInt_q (v : Option Int) : (s.showInt v).q = s.q := rfl

@[simp] theorem State.showInt_txPending (v : Option Int) : (s.showInt v).txPending = s.txPending := rfl

@[simp] theorem State.showInt_txOut (v : Option Int) : (s.showInt v).txOut = s.txOut := rfl

@[simp] theorem State.showInt_trace (v : Option Int) : (s.showInt v).trace = s.trace := rfl

@[simp] theorem State.showInt_port (v : Option Int) : (s.showInt v).port = s.port := rfl

@[simp] theorem State.showInt_future (v : Option Int) : (s.showInt v).future = s.future := rfl

@[simp] theorem State.showInt_result (v : Option Int) : (s.showInt v).result = (match v with
      | none => .nothing
      | some v => .int v) := rfl

@[simp] theorem State.showInt_prof (v : Option Int) : (s.showInt v).prof = s.prof := rfl

@[simp] theorem State.showInt_buf (v : Option Int) : (s.showInt v).buf = s.buf := rfl

/-! ## showByte -/

@[simp] theorem State.showByte_profile (v : Option Byte) : (s.showByte v).profile = s.profile := rfl

@[simp] theorem State.showByte_mem (v : Option Byte) : (s.showByte v).mem = s.mem := rfl

@[simp] theorem State.showByte_hf (v : Option Byte) : (s.showByte v).hf = s.hf := rfl

@[simp] theorem State.showByte_warn (v : Option Byte) : (s.showByte v).warn = s.warn := rfl

@[simp] theorem State.showByte_failed (v : Option Byte) : (s.showByte v).failed = s.failed := rfl

@[simp] theorem State.showByte_xchg (v : Option Byte) : (s.showByte v).xchg = s.xchg := rfl

@[simp] theorem State.showByte_pending (v : Option Byte) : (s.showByte v).pending = s.pending := rfl

@[simp] theorem State.showByte_q (v : Option Byte) : (s.showByte v).q = s.q := rfl

@[simp] theorem State.showByte_txPending (v : Option Byte) : (s.showByte v).txPending = s.txPending := rfl

@[simp] theorem State.showByte_txOut (v : Option Byte) : (s.showByte v).txOut = s.txOut := rfl

@[simp] theorem State.showByte_trace (v : Option Byte) : (s.showByte v).trace = s.trace := rfl

@[simp] theorem State.showByte_port (v : Option Byte) : (s.showByte v).port = s.port := rfl

@[simp] theorem State.showByte_future (v : Option Byte) : (s.showByte v).future = s.future := rfl

@[simp] theorem State.showByte_result (v : Option Byte) : (s.showByte v).result = (match v with
      | none => .nothing
      | some b => .byte b) := rfl

@[simp] theorem State.showByte_prof (v : Option Byte) : (s.showByte v).prof = s.prof := rfl

@[simp] theorem State.showByte_buf (v : Option Byte) : (s.showByte v).buf = s.buf := rfl

/-! ## showBytes -/

@[simp] theorem State.showBytes_profile (l : List Byte) : (s.showBytes l).profile = s.profile := rfl

@[simp] theorem State.showBytes_mem (l : List Byte) : (s.showBytes l).mem = s.mem := rfl

@[simp] theorem State.showBytes_hf (l : List Byte) : (s.showBytes l).hf = s.hf := rfl

@[simp] theorem State.showBytes_warn (l : List Byte) : (s.showBytes l).warn = s.warn := rfl

@[simp] theorem State.showBytes_failed (l : List Byte) : (s.showBytes l).failed = s.failed := rfl

@[simp] theorem State.showBytes_xchg (l : List Byte) : (s.showBytes l).xchg = s.xchg := rfl

@[simp] theorem State.showBytes_pending (l : List Byte) : (s.showBytes l).pending = s.pending := rfl

@[simp] theorem State.showBytes_q (l : List Byte) : (s.showBytes l).q = s.q := rfl

@[simp] theorem State.showBytes_txPending (l : List Byte) : (s.showBytes l).txPending = s.txPending := rfl

@[simp] theorem State.showBytes_txOut (l : List Byte) : (s.showBytes l).txOut = s.txOut := rfl

@[simp] theorem State.showBytes_trace (l : List Byte) : (s.showBytes l).trace = s.trace := rfl

@[simp] theorem State.showBytes_port (l : List Byte) : (s.showBytes l).port = s.port := rfl

@[simp] theorem State.showBytes_future (l : List Byte) : (s.showBytes l).future = s.future := rfl

@[simp] theorem State.showBytes_result (l : List Byte) : (s.showBytes l).result = .bytes l := rfl

@[simp] theorem State.showBytes_prof (l : List Byte) : (s.showBytes l).prof = s.prof := rfl

@[simp] theorem State.showBytes_buf (l : List Byte) : (s.showBytes l).buf = s.buf := rfl

end Sys2Proof.Machine
end

