-- ==== Sys2Proof/Laws/Memory.lean ====
section
/-! SUPPORT. The receive buffer: what a read gives after each write (R57, R58, R59), that every buffer operation answers the
canonical form, and what a guarded read answers (R60). -/

namespace Sys2Proof.Machine

theorem memoryBytes_memoryFrom (a : Nat) (l : List Byte) : memoryBytes (memoryFrom a l) = l := by
  induction l generalizing a with
  | nil => rfl
  | cons b r ih => simpa [memoryFrom, memoryBytes] using ih (a + 1)

@[simp] theorem memoryBytes_memoryOf (l : List Byte) : memoryBytes (memoryOf l) = l := memoryBytes_memoryFrom 0 l

@[simp] theorem memoryOf_nil : memoryOf [] = [] := rfl

/-- What the state writes to the buffer is canonical. -/
@[simp] theorem memoryWf_memoryOf (l : List Byte) : memoryWf (memoryOf l) = true := by simp [memoryWf]

/-- A canonical memory is determined by its bytes. -/
theorem memory_eq_of_wf {m : Memory} (h : memoryWf m = true) : m = memoryOf (memoryBytes m) := by
  simpa [memoryWf] using h

theorem memory_eq_of_bytes_eq {m m' : Memory} (h : memoryWf m = true) (h' : memoryWf m' = true)
    (e : memoryBytes m = memoryBytes m') : m = m' := by
  rw [memory_eq_of_wf h, memory_eq_of_wf h', e]

/-- The addresses of a canonical memory are strictly rising. -/
theorem memoryFrom_addresses_rise (a : Nat) (l : List Byte) : ((memoryFrom a l).map Prod.fst).Pairwise (· < ·) ∧
    ∀ x ∈ (memoryFrom a l).map Prod.fst, a ≤ x := by
  induction l generalizing a with
  | nil => simp [memoryFrom]
  | cons b r ih =>
    obtain ⟨hp, hb⟩ := ih (a + 1)
    refine ⟨by simpa [memoryFrom] using ⟨fun x y h => hb x (List.mem_map_of_mem (f := Prod.fst) h), hp⟩, ?_⟩
    intro x hx
    simp only [memoryFrom, List.map_cons, List.mem_cons] at hx
    rcases hx with rfl | hx
    · exact Nat.le_refl _
    · exact Nat.le_of_succ_le (hb x hx)

/-! ## Every buffer operation keeps the canonical form -/

theorem State.setBuf_wf (s : State) (l : List Byte) : memoryWf (s.setBuf l).mem = true := by simp

theorem State.memAppend_wf (s : State) (b : Byte) : memoryWf (s.memAppend b).mem = true := by simp

theorem State.eraseFront_wf (s : State) (k : Nat) : memoryWf (s.eraseFront k).mem = true := by simp

theorem State.clear_wf (s : State) : memoryWf s.clear.mem = true := rfl

theorem State.reset_wf : memoryWf State.reset.mem = true := rfl

/-! ## Reads after writes -/

@[simp] theorem State.setBuf_buf (s : State) (l : List Byte) : (s.setBuf l).buf = l := by simp [State.buf]

/-- R57. -/
@[simp] theorem State.memAppend_buf (s : State) (b : Byte) : (s.memAppend b).buf = s.buf ++ [b] := by
  simp [State.memAppend]

/-- R58. -/
@[simp] theorem State.eraseFront_buf (s : State) (k : Nat) : (s.eraseFront k).buf = s.buf.drop k := by
  simp [State.eraseFront]

/-- R59. -/
@[simp] theorem State.clear_buf (s : State) : s.clear.buf = [] := rfl

/-- The byte appended reads back, and every other cell reads as before. -/
theorem State.readByte_memAppend (s : State) (b : Byte) (a : Nat) :
    (s.memAppend b).readByte a = if a = s.len then some b else s.readByte a := by
  have hl : s.len = s.buf.length := rfl
  simp only [State.readByte, State.memAppend_buf]
  rcases Nat.lt_trichotomy a s.len with h | h | h
  · rw [if_neg (by omega), List.getElem?_append_left (by omega)]
  · rw [if_pos h, h, hl]; simp
  · rw [if_neg (by omega), List.getElem?_eq_none (by simp; omega), List.getElem?_eq_none (by omega)]

theorem State.readByte_eraseFront (s : State) (k a : Nat) : (s.eraseFront k).readByte a = s.readByte (a + k) := by
  simp [State.readByte, Nat.add_comm]

theorem State.readByte_clear (s : State) (a : Nat) : s.clear.readByte a = none := rfl

/-! ## Guarded reads -/

/-- R60: a guarded read answers exactly where its guard holds. -/
theorem memRead_isSome (l : List Byte) (off n : Nat) : (memRead l off n).isSome = decide (off + n ≤ l.length) := by
  unfold memRead
  split <;> simp_all

theorem memRead_eq_some {l : List Byte} {off n : Nat} (h : off + n ≤ l.length) :
    memRead l off n = some ((l.drop off).take n) := if_pos h

theorem memRead_eq_none {l : List Byte} {off n : Nat} (h : l.length < off + n) : memRead l off n = none :=
  if_neg (by omega)

theorem length_of_memRead {l v : List Byte} {off n : Nat} (h : memRead l off n = some v) : v.length = n := by
  unfold memRead at h
  split at h
  · cases h; simp; omega
  · cases h

/-- Appending bytes behind a guarded read does not change it. -/
theorem memRead_append {l v : List Byte} {off n : Nat} (r : List Byte) (h : memRead l off n = some v) :
    memRead (l ++ r) off n = some v := by
  unfold memRead at h
  split at h
  · rename_i hl
    rw [memRead_eq_some (by simp; omega), ← h, List.drop_append_of_le_length (by omega),
      List.take_append_of_le_length (by simp; omega)]
  · cases h

theorem memRead_one (l : List Byte) (off : Nat) : memRead l off 1 = (l[off]?).map fun b => [b] := by
  rcases Nat.lt_or_ge off l.length with h | h
  · rw [memRead_eq_some (by omega), List.getElem?_eq_getElem h, List.drop_eq_getElem_cons h]; rfl
  · rw [memRead_eq_none (by omega), List.getElem?_eq_none h]; rfl

end Sys2Proof.Machine
end

