-- ==== Sys2Proof/Laws/Ops.lean ====
section
/-! SUPPORT. For each shared operation, once, everything it can do: the Byte Source (R51 to R54), the error conditions
(R290), the erase (R222), the micro-operations, POLL's loop (R122) and the exchange's wait loop (R280). -/

namespace Sys2Proof.Machine

/-! ## The Byte Source -/

theorem State.pop_nil {s : State} (h : s.q = []) : s.pop = none := by simp [State.pop, h]

theorem State.pop_cons {s : State} {b : Byte} {r : List Byte} (h : s.q = b :: r) :
    s.pop = some (b, { s with q := r }) := by simp [State.pop, h]

/-- What an arrival can do: a batch moves from the producer to the queue's tail. -/
theorem State.arrive_cases (s : State) :
    (s.future = [] ∧ s.arrive = s) ∨
    ∃ l r, s.future = l :: r ∧ s.arrive = { s with q := s.q ++ l, future := r } := by
  unfold State.arrive
  split <;> rename_i h
  · exact .inl ⟨h, rfl⟩
  · exact .inr ⟨_, _, h, rfl⟩

/-- An arrival adds no byte to what is still to be taken in, and takes none away (R51). -/
@[simp] theorem State.arrive_stream (s : State) : s.arrive.stream = s.stream := by
  rcases s.arrive_cases with ⟨_, h⟩ | ⟨l, r, hf, h⟩ <;> simp [State.stream, *]

/-! ## The error conditions (R290) -/

@[simp] theorem raise_malformedFrame (c : Cause) (s : State) : raise (.malformedFrame c) s =
    { s with trace := s.trace ++ [.warn (.malformed c)], mem := [], hf := false, warn := true } := rfl

@[simp] theorem raise_unknownCommand (t : Nat) (c : Option Nat) (s : State) :
    raise (.unknownCommand t c) s = { s with trace := s.trace ++ [.logUnknown t c] } := rfl

@[simp] theorem raise_exchangeTimeout (s : State) : raise .exchangeTimeout s =
    { s with trace := s.trace ++ [.warn .timeout], warn := true, xchg := .idle, pending := none } := rfl

@[simp] theorem raise_setupFailure (s : State) : raise .setupFailure s = { s with failed := true } := rfl

@[simp] theorem raise_syncNoise (s : State) : raise .syncNoise s = { s with q := s.q.tail } := rfl

@[simp] theorem raise_incompleteFrame (s : State) : raise .incompleteFrame s = s := rfl

/-! ## The micro-operations -/

/-- The erase, whole (R222). -/
theorem consume_eq (n : Nat) (s : State) : consume n s =
    { s with mem := memoryOf (s.buf.drop n), hf := decide (n < s.len), warn := false } := by
  have h : (s.eraseFront n).len = s.len - n := by simp [State.len]
  have h' : decide (0 < (s.eraseFront n).len) = decide (n < s.len) := by rw [h]; congr 1; simp
  simp only [consume, h']
  rfl

/-- A micro-operation runs exactly where it is selected. -/
theorem whenSelected_eq_next {op : MicroOp} {s t u : State} :
    whenSelected op s t = .next u ↔ s.select = op ∧ t = u := by
  unfold whenSelected
  split <;> simp_all

/-- DISCARD performed on a byte is condition 1 (R291). -/
theorem doDiscard_eq_raise (s : State) : doDiscard s = raise .syncNoise s := by
  cases s with
  | mk profile mem hf warn failed xchg pending q txPending txOut trace port future result =>
    cases q <;> rfl

theorem doSync_cons {s : State} {b : Byte} {r : List Byte} (h : s.q = b :: r) :
    doSync s = { s with q := r, hf := true, mem := memoryOf (s.buf ++ [b]) } := by
  simp [doSync, State.pop, h, State.memAppend, State.setBuf, State.buf, State.setHf]

theorem doAppend_eq_doSync (s : State) : doAppend s = doSync s := rfl

/-- The fields no micro-operation writes. -/
def SameRest (s t : State) : Prop :=
  t.profile = s.profile ∧ t.failed = s.failed ∧ t.xchg = s.xchg ∧ t.pending = s.pending ∧
    t.txPending = s.txPending ∧ t.txOut = s.txOut ∧ t.port = s.port ∧ t.result = s.result

theorem SameRest.refl (s : State) : SameRest s s := ⟨rfl, rfl, rfl, rfl, rfl, rfl, rfl, rfl⟩

theorem SameRest.trans {s t u : State} (h : SameRest s t) (h' : SameRest t u) : SameRest s u := by
  obtain ⟨a, b, c, d, e, f, g, i⟩ := h
  obtain ⟨a', b', c', d', e', f', g', i'⟩ := h'
  exact ⟨a'.trans a, b'.trans b, c'.trans c, d'.trans d, e'.trans e, f'.trans f, g'.trans g, i'.trans i⟩

/-- What performing a micro-operation can do to the fields of the parser, all cases. -/
theorem perform_cases (op : MicroOp) (s : State) :
    perform op s = s ∨
    (∃ b r, s.q = b :: r ∧ op = .discard ∧ perform op s = { s with q := r }) ∨
    (∃ b r, s.q = b :: r ∧ (op = .sync ∨ op = .append) ∧
      perform op s = { s with q := r, hf := true, mem := memoryOf (s.buf ++ [b]) }) ∨
    (∃ c, rejectCause s.prof s.buf = some c ∧ op = .reject ∧ perform op s = raise (.malformedFrame c) s) ∨
    (∃ f, s.front = some f ∧ op = .dispatch ∧ perform op s =
      { s with trace := s.trace ++ .frame f.t f.cmd f.payload ::
                 handlerEvents s.prof f.payload ((handlerOf f.ty f.cmd).getD []),
               mem := memoryOf (s.buf.drop f.total), hf := decide (f.total < s.len), warn := false }) ∨
    (∃ f, s.front = some f ∧ op = .unknown ∧ perform op s =
      { s with trace := s.trace ++ [.frame f.t f.cmd f.payload, .logUnknown f.t f.cmd],
               mem := memoryOf (s.buf.drop f.total), hf := decide (f.total < s.len), warn := false }) := by
  cases op with
  | halt => exact .inl rfl
  | idle => exact .inl rfl
  | discard =>
    cases h : s.q with
    | nil => exact .inl (by simp [perform, doDiscard, State.pop_nil h])
    | cons b r => exact .inr (.inl ⟨b, r, rfl, rfl, by simp [perform, doDiscard, State.pop_cons h]⟩)
  | sync =>
    cases h : s.q with
    | nil => exact .inl (by simp [perform, doSync, State.pop, h])
    | cons b r => exact .inr (.inr (.inl ⟨b, r, rfl, .inl rfl, doSync_cons h⟩))
  | append =>
    cases h : s.q with
    | nil => exact .inl (by simp [perform, doAppend, State.pop, h])
    | cons b r => exact .inr (.inr (.inl ⟨b, r, rfl, .inr rfl, doSync_cons h⟩))
  | reject =>
    cases h : rejectCause s.prof s.buf with
    | none => exact .inl (by simp [perform, doReject, h])
    | some c => exact .inr (.inr (.inr (.inl ⟨c, rfl, rfl, by simp [perform, doReject, h]⟩)))
  | dispatch =>
    cases h : s.front with
    | none => exact .inl (by simp [perform, doDispatch, h])
    | some f =>
      refine .inr (.inr (.inr (.inr (.inl ⟨f, rfl, rfl, ?_⟩))))
      simp only [perform, doDispatch, h, consume_eq]
      simp only [State.emit, State.emitAll, List.append_assoc, List.singleton_append]
      rfl
  | unknown =>
    cases h : s.front with
    | none => exact .inl (by simp [perform, doUnknown, h])
    | some f =>
      refine .inr (.inr (.inr (.inr (.inr ⟨f, rfl, rfl, ?_⟩))))
      simp only [perform, doUnknown, h, consume_eq]
      simp only [State.emit, raise_unknownCommand, List.append_assoc, List.singleton_append]
      rfl

/-- No micro-operation writes a field that is not the parser's. -/
theorem perform_sameRest (op : MicroOp) (s : State) : SameRest s (perform op s) ∧ (perform op s).future = s.future := by
  rcases perform_cases op s with h | ⟨b, r, _, _, h⟩ | ⟨b, r, _, _, h⟩ | ⟨c, _, _, h⟩ | ⟨f, _, _, h⟩ | ⟨f, _, _, h⟩ <;>
    rw [h] <;> exact ⟨⟨rfl, rfl, rfl, rfl, rfl, rfl, rfl, rfl⟩, rfl⟩

theorem microStep_sameRest (s : State) : SameRest s (microStep s).2 := by
  rcases s.arrive_cases with ⟨_, h⟩ | ⟨l, r, _, h⟩
  · simpa [microStep, h] using (perform_sameRest s.select s).1
  · simp only [microStep, h]
    exact SameRest.trans ⟨rfl, rfl, rfl, rfl, rfl, rfl, rfl, rfl⟩ (perform_sameRest _ _).1

/-- One turn of POLL's loop (R122). -/
theorem pollLoop_succ (n : Nat) (s : State) : pollLoop (n + 1) s =
    if endsPoll (microStep s).1 then (microStep s).2 else pollLoop n (microStep s).2 := rfl

/-- What every micro-step keeps, a POLL keeps. -/
theorem pollLoop_induction {P : State → Prop} (step : ∀ s, P s → P (microStep s).2) :
    ∀ (n : Nat) (s : State), P s → P (pollLoop n s)
  | 0, _, h => h
  | n + 1, s, h => by
    rw [pollLoop_succ]
    split
    · exact step s h
    · exact pollLoop_induction step n _ (step s h)

theorem pollLoop_sameRest (n : Nat) (s : State) : SameRest s (pollLoop n s) :=
  pollLoop_induction (P := SameRest s) (fun t h => h.trans (microStep_sameRest t)) n s (SameRest.refl s)

/-! ## The exchange -/

/-- What the wait loop of an exchange can do: bytes are popped from the head of what is still to be taken in, and where
it answers a reply, the reply has `REPLY_LEN` bytes or more (R280). -/
theorem xchgWait_cases (fuel tries : Nat) (r : List Byte) (s t : State) (o : Option (List Byte))
    (h : xchgWait fuel tries r s = (t, o)) :
    (∃ q f, t = { s with q := q, future := f }) ∧ t.stream <:+ s.stream ∧
      ∀ r', o = some r' → r <+: r' ∧ s.prof.replyLen ≤ r'.length := by
  induction fuel generalizing tries r s with
  | zero => cases h; exact ⟨⟨_, _, rfl⟩, List.suffix_refl _, by simp⟩
  | succ n ih =>
    unfold xchgWait at h
    split at h
    · rename_i hl
      cases h
      exact ⟨⟨_, _, rfl⟩, List.suffix_refl _, fun r' h => by cases h; exact ⟨List.prefix_refl _, hl⟩⟩
    · have ha : ∃ q f, s.arrive = { s with q := q, future := f } := by
        rcases s.arrive_cases with ⟨_, e⟩ | ⟨l, r, _, e⟩
        · exact ⟨s.q, s.future, e⟩
        · exact ⟨_, _, e⟩
      have hst := s.arrive_stream
      obtain ⟨q, f, e⟩ := ha
      rw [e] at h hst
      cases q with
      | nil =>
        simp only [State.pop] at h
        split at h
        · cases h
          exact ⟨⟨[], f, rfl⟩, by rw [hst], by simp⟩
        · obtain ⟨⟨q', f', e'⟩, hs, hr⟩ := ih _ _ _ h
          exact ⟨⟨q', f', by rw [e']⟩, by rw [← hst]; exact hs, hr⟩
      | cons b q =>
        simp only [State.pop] at h
        obtain ⟨⟨q', f', e'⟩, hs, hr⟩ := ih _ _ _ h
        refine ⟨⟨q', f', by rw [e']⟩, ?_, fun r' ho => ?_⟩
        · rw [← hst]
          exact hs.trans ⟨[b], by simp [State.stream]⟩
        · obtain ⟨h1, h2⟩ := hr r' ho
          exact ⟨(List.prefix_append r [b]).trans h1, h2⟩

/-- What a look can do: a byte of what is still to be taken in joins the reply, or nothing is available. -/
theorem exchangeLook_cases (s : State) (r : List Byte) :
    (s.arrive.q = [] ∧ exchangeLook s r = (s.arrive, r)) ∨
    ∃ b q, s.arrive.q = b :: q ∧ exchangeLook s r = ({ s.arrive with q := q }, r ++ [b]) := by
  cases h : s.arrive.q with
  | nil => exact .inl ⟨rfl, by simp [exchangeLook, h]⟩
  | cons b q => exact .inr ⟨b, q, rfl, by simp [exchangeLook, h]⟩

/-- A look writes the queue and the arrivals to come only. -/
theorem exchangeLook_rest (s : State) (r : List Byte) :
    ∃ q f, (exchangeLook s r).1 = { s with q := q, future := f } := by
  rcases s.arrive_cases with ⟨_, ha⟩ | ⟨l, f, _, ha⟩ <;>
    rcases exchangeLook_cases s r with ⟨_, h⟩ | ⟨b, q, _, h⟩ <;> rw [h, ha] <;> exact ⟨_, _, rfl⟩

/-- One turn of the wait loop with the whole reply there. -/
theorem xchgWait_done {fuel tries : Nat} {r : List Byte} {s : State} (h : s.prof.replyLen ≤ r.length) :
    xchgWait (fuel + 1) tries r s = (s, some r) := by
  simp [xchgWait, h]

/-- One turn of the wait loop whose look finds a byte: no try is counted. -/
theorem xchgWait_byte {fuel tries : Nat} {r : List Byte} {s : State} {b : Byte} {q : List Byte}
    (h : r.length < s.prof.replyLen) (hq : s.arrive.q = b :: q) :
    xchgWait (fuel + 1) tries r s = xchgWait fuel tries (exchangeLook s r).2 (exchangeLook s r).1 := by
  rw [xchgWait, if_neg (by omega)]
  simp [State.pop, exchangeLook, hq]

/-- One turn of the wait loop whose look finds no byte: a try is counted, and the last one is the time-out. -/
theorem xchgWait_empty {fuel tries : Nat} {r : List Byte} {s : State}
    (h : r.length < s.prof.replyLen) (hq : s.arrive.q = []) :
    xchgWait (fuel + 1) tries r s =
      if s.arrive.prof.xchgTimeout ≤ tries + 1 then ((exchangeLook s r).1, none)
      else xchgWait fuel (tries + 1) (exchangeLook s r).2 (exchangeLook s r).1 := by
  rw [xchgWait, if_neg (by omega)]
  simp [State.pop, exchangeLook, hq]

/-- What packing bits can answer (R273). -/
theorem packBits_eq_some {prof : Config.Profile} {hi lo m e : Nat} {b b' : Byte}
    (h : packBits prof hi lo m e b = some b') :
    ∃ table x, prof.bitmaps[m]? = some table ∧ table.Nodup ∧
      Config.recItemOk prof.bitmaps (.bitfield 0 0 hi lo m) = true ∧ table.idxOf? e = some x ∧
      b' = BitVec.ofNat 8 (b.toNat - bitRange b hi lo * 2 ^ lo + x * 2 ^ lo) := by
  simp only [packBits, Option.bind_eq_some_iff] at h
  obtain ⟨table, ht, h⟩ := h
  split at h
  · rename_i hok
    obtain ⟨x, hx, rfl⟩ := Option.map_eq_some_iff.mp h
    exact ⟨table, x, ht, hok.2, hok.1, hx, rfl⟩
  · cases h

/-- Running no instruction, and one and then the rest. -/
@[simp] theorem execAll_nil (s : State) : execAll [] s = .next s := rfl

theorem execAll_cons_next {i : Instr} {is : List Instr} {s t : State} (h : exec i s = .next t) :
    execAll (i :: is) s = execAll is t := by
  rw [execAll, h]

/-- DECODE of a reply, all cases (R282): it writes the trace and `warn` only. -/
theorem decodeReply_cases (r : List Byte) (s : State) :
    (∃ c, decodeReply r s = { s with trace := s.trace ++ [.warn (.malformed c)], warn := true }) ∨
    ∃ i t, ftype s.prof r = some (i, t) ∧ frameCause t r s.prof.replyLen = none ∧
      decodeReply r s =
        { s with trace := s.trace ++ frameEvents s.prof (frontOf i t r s.prof.replyLen), warn := false } := by
  unfold decodeReply
  split
  · exact .inl ⟨.noType, rfl⟩
  · rename_i i t ht
    split
    · rename_i c _
      exact .inl ⟨c, rfl⟩
    · rename_i hc
      refine .inr ⟨i, t, ht, hc, ?_⟩
      cases hh : handlerOf t (frontOf i t r s.prof.replyLen).cmd with
      | none => simp [frameEvents, frontOf, State.emit, State.setWarn] at hh ⊢; simp [hh]
      | some items => simp [frameEvents, frontOf, State.emit, State.emitAll, State.setWarn, State.prof] at hh ⊢; simp [hh]

end Sys2Proof.Machine
end

