-- ==== Sys2Proof/Laws/PerInstr.lean ====
section
/-! SUPPORT. The family WordForm: every operation's word begins with its code and its table's byte (log 5), and the table
byte is one of the eight. One lemma per operation. -/

namespace Sys2Proof.Laws.WordForm

/-- The word of `i` is a code below 128, a table byte 1 to 8, then the operands. -/
def Statement (i : Instr) : Prop :=
  ∃ code table operands, encode i = code :: table :: operands ∧ code.toNat < 128 ∧ 1 ≤ table.toNat ∧ table.toNat ≤ 8

theorem of_word {i : Instr} {code table : Byte} {operands : List Byte} (h : encode i = code :: table :: operands)
    (bounds : decide (code.toNat < 128 ∧ 1 ≤ table.toNat ∧ table.toNat ≤ 8) = true) : Statement i :=
  ⟨code, table, operands, h, of_decide_eq_true bounds⟩

theorem halt : Statement .halt :=
  of_word rfl rfl

theorem reject : Statement .reject :=
  of_word rfl rfl

theorem dispatch : Statement .dispatch :=
  of_word rfl rfl

theorem unknown : Statement .unknown :=
  of_word rfl rfl

theorem idle : Statement .idle :=
  of_word rfl rfl

theorem discard : Statement .discard :=
  of_word rfl rfl

theorem sync : Statement .sync :=
  of_word rfl rfl

theorem append : Statement .append :=
  of_word rfl rfl

theorem rdU8 (p : List Byte) (off : Nat) : Statement (.rdU8 p off) :=
  of_word rfl rfl

theorem rdI8 (p : List Byte) (off : Nat) : Statement (.rdI8 p off) :=
  of_word rfl rfl

theorem rdU16le (p : List Byte) (off : Nat) : Statement (.rdU16le p off) :=
  of_word rfl rfl

theorem rdU16be (p : List Byte) (off : Nat) : Statement (.rdU16be p off) :=
  of_word rfl rfl

theorem rdI16le (p : List Byte) (off : Nat) : Statement (.rdI16le p off) :=
  of_word rfl rfl

theorem rdI16be (p : List Byte) (off : Nat) : Statement (.rdI16be p off) :=
  of_word rfl rfl

theorem rdU32le (p : List Byte) (off : Nat) : Statement (.rdU32le p off) :=
  of_word rfl rfl

theorem rdU32be (p : List Byte) (off : Nat) : Statement (.rdU32be p off) :=
  of_word rfl rfl

theorem rdI32le (p : List Byte) (off : Nat) : Statement (.rdI32le p off) :=
  of_word rfl rfl

theorem rdI32be (p : List Byte) (off : Nat) : Statement (.rdI32be p off) :=
  of_word rfl rfl

theorem reservedKind0001 : Statement .reservedKind0001 :=
  of_word rfl rfl

theorem reservedKind1001 : Statement .reservedKind1001 :=
  of_word rfl rfl

theorem reservedKind0110 : Statement .reservedKind0110 :=
  of_word rfl rfl

theorem reservedKind0111 : Statement .reservedKind0111 :=
  of_word rfl rfl

theorem reservedKind1110 : Statement .reservedKind1110 :=
  of_word rfl rfl

theorem reservedKind1111 : Statement .reservedKind1111 :=
  of_word rfl rfl

theorem ckNone (span : List Byte) : Statement (.ckNone span) :=
  of_word rfl rfl

theorem ckSum8 (span : List Byte) : Statement (.ckSum8 span) :=
  of_word rfl rfl

theorem ckNeg8 (span : List Byte) : Statement (.ckNeg8 span) :=
  of_word rfl rfl

theorem ckCustom (fn : Nat) (span : List Byte) : Statement (.ckCustom fn span) :=
  of_word rfl rfl

theorem nop : Statement .nop :=
  of_word rfl rfl

theorem poll : Statement .poll :=
  of_word rfl rfl

theorem reset : Statement .reset :=
  of_word rfl rfl

theorem markFailed : Statement .markFailed :=
  of_word rfl rfl

theorem xmit (t : Nat) (c : Option Nat) (p : List Byte) : Statement (.xmit t c p) :=
  of_word rfl rfl

theorem xchg (t : Nat) (c : Option Nat) (p : List Byte) : Statement (.xchg t c p) :=
  of_word rfl rfl

theorem reservedHost110 : Statement .reservedHost110 :=
  of_word rfl rfl

theorem reservedHost111 : Statement .reservedHost111 :=
  of_word rfl rfl

theorem frameGeneral (f : WireFrame) : Statement (.frameGeneral f) :=
  of_word rfl rfl

theorem frameP1 (cmd : Byte) (payload : List Byte) : Statement (.frameP1 cmd payload) :=
  of_word rfl rfl

theorem frameP2 (hdr : List Byte) (cmd : Nat) (payload tail : List Byte) : Statement (.frameP2 hdr cmd payload tail) :=
  of_word rfl rfl

theorem frameP3 (b0 : Byte) (body : List Byte) : Statement (.frameP3 b0 body) :=
  of_word rfl rfl

theorem layoutP4 (count flags : Byte) (records : List Byte) : Statement (.layoutP4 count flags records) :=
  of_word rfl rfl

theorem field (p : List Byte) (sink off : Nat) (kind : Kind) (scale : Option Nat) : Statement (.field p sink off kind scale) :=
  of_word rfl rfl

theorem bitfield (p : List Byte) (sink off hi lo map : Nat) : Statement (.bitfield p sink off hi lo map) :=
  of_word rfl rfl

theorem targets (p : List Byte) (off : Nat) (items : List RecItem) : Statement (.targets p off items) :=
  of_word rfl rfl

theorem log (tag : Tag) : Statement (.log tag) :=
  of_word rfl rfl

theorem cmdP1FactoryReset : Statement .cmdP1FactoryReset :=
  of_word rfl rfl

theorem encodeFrame (t : Nat) (c : Option Nat) (p : List Byte) : Statement (.encodeFrame t c p) :=
  of_word rfl rfl

end Sys2Proof.Laws.WordForm
end

