-- ==== Sys2Proof/Laws/Profile.lean ====
section
/-! SUPPORT. What the admission of a profile gives (R10), what `ftype` can answer (R161), and that fields read back as they
were written (R63). -/

namespace Sys2Proof.Machine

open Sys2Proof.Config (Profile FrameType Admitted withinCap)

/-! ## Admission (R10) -/

theorem Admitted.type_ok (a : Admitted) {t : FrameType} (h : t ∈ a.raw.types) : t.ok a.raw.bitmaps = true := by
  have := a.ok
  simp only [Profile.wf, Bool.and_eq_true, List.all_eq_true] at this
  exact this.1.1.1.1.1.2 t h

theorem Admitted.types_ne_nil (a : Admitted) : a.raw.types ≠ [] := by
  have := a.ok
  simp only [Profile.wf, Bool.and_eq_true] at this
  simpa using this.1.1.1.1.1.1

theorem Admitted.cap_ok (a : Admitted) {t : FrameType} (h : t ∈ a.raw.types) :
    withinCap a.raw.bufCap (t.hdr.length + t.lfW) = true := by
  have := a.ok
  simp only [Profile.wf, Bool.and_eq_true, List.all_eq_true] at this
  exact this.1.1.1.2 t h

theorem Admitted.first_bytes_nodup (a : Admitted) : (a.raw.types.map fun t => t.hdr.head?).Nodup := by
  have := a.ok
  simp only [Profile.wf, Bool.and_eq_true, decide_eq_true_eq] at this
  exact this.1.1.1.1.2

theorem Admitted.recSz_pos (a : Admitted) : 0 < a.raw.recSz := by
  have := a.ok
  simp only [Profile.wf, Bool.and_eq_true, Bool.or_eq_true, beq_iff_eq] at this
  rcases this.1.1.2 with h | h <;> omega

theorem Admitted.budget_ne_zero (a : Admitted) : a.raw.pollBudget ≠ some 0 := by
  have := a.ok
  simp only [Profile.wf, Bool.and_eq_true] at this
  simpa using this.1.2

theorem Admitted.timeout_pos (a : Admitted) : 1 ≤ a.raw.xchgTimeout := by
  have := a.ok
  simp only [Profile.wf, Bool.and_eq_true, decide_eq_true_eq] at this
  exact this.2

/-- The bounds of R10 items (a), (b), (g) and of R8, and the length rule of items (d) and (e). -/
theorem FrameType.ok_bounds {t : FrameType} {bm : List (List Nat)} (h : t.ok bm = true) :
    1 ≤ t.hdr.length ∧ t.hdr.length ≤ 4 ∧ t.tail.length ≤ 4 ∧ t.lenModeOk = true ∧ t.cmdW ≤ 2 ∧
      t.ckStart ≤ t.hdr.length + t.lfW + t.cmdW := by
  simp only [Config.FrameType.ok, Bool.and_eq_true, decide_eq_true_eq] at h
  obtain ⟨⟨⟨⟨⟨⟨h1, h2⟩, h3⟩, h4⟩, h5⟩, h6⟩, _⟩ := h
  exact ⟨h1, h2, h3, h4, h5, h6⟩

/-- A frame has at least one byte. -/
theorem FrameType.minTotal_pos {t : FrameType} {bm : List (List Nat)} (h : t.ok bm = true) : 1 ≤ t.minTotal := by
  have := (FrameType.ok_bounds h).1
  unfold Config.FrameType.minTotal
  omega

/-- A type's handler keys differ (R104). -/
theorem FrameType.keys_nodup {t : FrameType} {bm : List (List Nat)} (h : t.ok bm = true) :
    (t.handlers.map Prod.fst).Nodup := by
  simp only [Config.FrameType.ok, Config.FrameType.handlersOk, Bool.and_eq_true, decide_eq_true_eq] at h
  exact h.2.1.2

/-- A type's handlers hold admitted items only (R227). -/
theorem FrameType.items_ok {t : FrameType} {bm : List (List Nat)} (h : t.ok bm = true) {c : Option Nat}
    {items : List Item} (hm : (c, items) ∈ t.handlers) : items.all (Config.itemOk bm) = true := by
  simp only [Config.FrameType.ok, Config.FrameType.handlersOk, Bool.and_eq_true, List.all_eq_true] at h
  simpa using (h.2.1.1 _ hm).2

/-- Looking a key up in a table whose keys differ finds its row. -/
theorem lookup_of_mem {l : List (Option Nat × List Item)} (hn : (l.map Prod.fst).Nodup) {c : Option Nat}
    {items : List Item} (h : (c, items) ∈ l) : l.lookup c = some items := by
  induction l with
  | nil => cases h
  | cons x l ih =>
    obtain ⟨k, v⟩ := x
    simp only [List.map_cons, List.nodup_cons] at hn
    rcases List.mem_cons.mp h with h | h
    · cases h; simp
    · have hk : c ≠ k := fun e => hn.1 (List.mem_map.mpr ⟨(c, items), h, e⟩)
      rw [List.lookup_cons, beq_false_of_ne hk]
      exact ih hn.2 h

/-- Looking up a key that no row has finds nothing. -/
theorem lookup_of_not_mem {l : List (Option Nat × List Item)} {c : Option Nat} (h : ∀ items, (c, items) ∉ l) :
    l.lookup c = none := by
  induction l with
  | nil => rfl
  | cons x l ih =>
    obtain ⟨k, v⟩ := x
    have hk : c ≠ k := fun e => h v (by simp [e])
    rw [List.lookup_cons, beq_false_of_ne hk]
    exact ih fun items hi => h items (List.mem_cons_of_mem _ hi)

/-! ## The frame type (R161) -/

theorem findType_eq_some {b : Byte} {n i : Nat} {ts : List FrameType} {t : FrameType}
    (h : findType b n ts = some (i, t)) : n ≤ i ∧ ts[i - n]? = some t ∧ t.hdr.head? = some b := by
  induction ts generalizing n with
  | nil => cases h
  | cons u ts ih =>
    unfold findType at h
    split at h
    · rename_i hu
      cases h
      exact ⟨Nat.le_refl _, by simp, hu⟩
    · obtain ⟨h1, h2, h3⟩ := ih h
      have e : i - n = (i - (n + 1)) + 1 := by omega
      exact ⟨by omega, by rw [e]; simpa using h2, h3⟩

theorem findType_isSome (b : Byte) (n : Nat) (ts : List FrameType) :
    (findType b n ts).isSome = ts.any fun t => t.hdr.head? = some b := by
  induction ts generalizing n with
  | nil => rfl
  | cons u ts ih =>
    unfold findType
    split <;> simp_all

/-- What `ftype` can answer. -/
theorem ftype_eq_some {p : Profile} {l : List Byte} {i : Nat} {t : FrameType} (h : ftype p l = some (i, t)) :
    ∃ b r, l = b :: r ∧ p.types[i]? = some t ∧ t.hdr.head? = some b := by
  cases l with
  | nil => cases h
  | cons b r =>
    obtain ⟨_, h2, h3⟩ := findType_eq_some h
    exact ⟨b, r, rfl, by simpa using h2, h3⟩

theorem ftype_mem {p : Profile} {l : List Byte} {i : Nat} {t : FrameType} (h : ftype p l = some (i, t)) :
    t ∈ p.types := by
  obtain ⟨_, _, _, h, _⟩ := ftype_eq_some h
  exact List.mem_of_getElem? h

/-- A byte is in FIRST exactly when a buffer that begins with it has a type (R141, R161). -/
theorem ftype_isSome_cons (p : Profile) (b : Byte) (r : List Byte) : (ftype p (b :: r)).isSome = isFirst p b :=
  findType_isSome b 0 p.types

/-- `ftype` reads the first byte only. -/
theorem ftype_cons (p : Profile) (b : Byte) (r r' : List Byte) : ftype p (b :: r) = ftype p (b :: r') := rfl

/-! ## Fields written and read back (R63, R271) -/

@[simp] theorem length_bytesLE (n v : Nat) : (bytesLE n v).length = n := by
  induction n generalizing v with
  | zero => rfl
  | succ n ih => simp [bytesLE, ih]

@[simp] theorem length_bytesOf (e : Endian) (n v : Nat) : (bytesOf e n v).length = n := by
  cases e <;> simp [bytesOf]

theorem uintLE_bytesLE (n v : Nat) (h : v < 256 ^ n) : uintLE (bytesLE n v) = v := by
  induction n generalizing v with
  | zero => simp [bytesLE, uintLE] at *; omega
  | succ n ih =>
    have h' : v / 256 < 256 ^ n := by rw [Nat.pow_succ] at h; omega
    simp [bytesLE, uintLE, ih _ h']
    omega

theorem uintBE_append (l : List Byte) (b : Byte) : uintBE (l ++ [b]) = 256 * uintBE l + b.toNat := by
  induction l with
  | nil => simp [uintBE]
  | cons a r ih => simp [uintBE, ih, Nat.pow_succ, Nat.mul_add]; ring

/-- The big-endian value of a string is the little-endian value of the reversed string. -/
theorem uintBE_reverse (l : List Byte) : uintBE l.reverse = uintLE l := by
  induction l with
  | nil => rfl
  | cons b r ih => simp [uintBE_append, uintLE, ih]; omega

/-- A field written in a byte order reads back in it. -/
theorem uint_bytesOf (e : Endian) (n v : Nat) (h : v < 256 ^ n) : uint e (bytesOf e n v) = v := by
  cases e
  · exact uintLE_bytesLE n v h
  · exact (uintBE_reverse _).trans (uintLE_bytesLE n v h)

theorem ckField_length (t : FrameType) (pre : List Byte) : (ckField t pre).length = t.ckW := by
  unfold ckField Config.FrameType.ckW
  cases t.ckFn <;> rfl

theorem byteSum_append (l l' : List Byte) : byteSum (l ++ l') = byteSum l + byteSum l' := by
  induction l with
  | nil => simp [byteSum]
  | cons b r ih => simp [byteSum, ih]; omega

theorem byteSum_eq_sum (l : List Byte) : byteSum l = (l.map BitVec.toNat).sum := by
  induction l with
  | nil => rfl
  | cons b r ih => simp [byteSum, ih]

end Sys2Proof.Machine
end

