-- ==== Sys2Proof/Tests/Slice0.lean ====
section
/-! SUPPORT. The model's own tests: ill-formed terms, decoding of words written out from the spec's tables, one step of
each operation with the values of 95_test_vectors, and for each obligation with hypotheses a state that meets them. -/

namespace Sys2Proof.Tests

open Sys2Proof.Machine
open Sys2Proof.Config (Admitted FrameType p1Type p2Type p3Type)

/-! ## Helpers -/

/-- The next state, if there is one. -/
def after (o : Host.Outcome State Fault Refusal) : Option State :=
  match o with
  | .next t => some t
  | .fault _ => none
  | .refused _ => none

/-- The events an operation adds to an empty trace. -/
def events (i : Instr) (s : State) : Option (List Event) := (after (exec i s)).map State.trace

/-- The value an operation shows. -/
def shows (i : Instr) : Option Result := (after (exec i State.reset)).map State.result

/-- `(buf, hf, warn, failed)` (R116). -/
def ends (i : Instr) (s : State) : Option (List Byte × Bool × Bool × Bool) :=
  (after (exec i s)).map fun t => (t.buf, t.hf, t.warn, t.failed)

/-- The frames of 95_test_vectors. -/
def frameG : List Byte := [0xFA, 0xFB, 0x03, 0x00, 0x5A, 0x5A, 0xFC, 0xFD]
def frameReset : List Byte := [0xFA, 0xFB, 0x03, 0x11, 0x77, 0x88, 0xFC, 0xFD]
def frameUnknown : List Byte := [0xFA, 0xFB, 0x03, 0x22, 0xAA, 0xCC, 0xFC, 0xFD]
def frameBad : List Byte := [0xFA, 0xFB, 0x03, 0x00, 0x5A, 0x5B, 0xFC, 0xFD]

/-- The TP1 profile of 95_test_vectors section 0: sinks temp 0, hum 1, press 2, mode 3, axis 4, dist 5, ang 6, spd 7. -/
def tp1 : Admitted :=
  { raw :=
      { Config.resetProfile.raw with
        types := [p1Type
          [(some 0x00, []), (some 0x11, [.log .factoryReset]),
            (some 0x20, [.single (.field 0 0 .i16le none), .single (.field 1 2 .u8 none),
              .single (.field 2 3 .u32be none)]),
            (some 0x30, [.single (.bitfield 3 0 1 0 0), .single (.bitfield 4 0 7 6 0)]),
            (some 0x40, [.targets 0 [.field 5 0 .u16le none, .field 6 2 .i8 none, .field 7 3 .i16be none]])]] }
    ok := by decide }

/-- The TP3 profile of 95_test_vectors section 0: sinks conc 0, full 1. -/
def tp3 : Admitted :=
  { raw :=
      { Config.resetProfile.raw with
        types := [p3Type [0xA5] 1 .le
          [(some 0x86, [.single (.field 0 1 .u16be none), .single (.field 1 3 .u16be none)])]] }
    ok := by decide }

/-- A P3 profile with no command field. -/
def tpBare : Admitted :=
  { raw := { Config.resetProfile.raw with types := [p3Type [0xA5] 0 .le [(none, [])]], replyLen := 9 }, ok := by decide }

/-- TP1s with a budget of one micro-operation a POLL. -/
def tpBudget : Admitted :=
  { raw := { Config.resetProfile.raw with pollBudget := some 1 }, ok := by decide }

/-- TP1s with a buffer of 7 bytes, and one of 8. -/
def tpSmall : Admitted := { raw := { Config.resetProfile.raw with bufCap := some 7 }, ok := by decide }
def tpExact : Admitted := { raw := { Config.resetProfile.raw with bufCap := some 8 }, ok := by decide }

/-- Reset with bytes in the queue. -/
def feeding (l : List Byte) : State := { State.reset with q := l }

/-- A state that gathers: the buffer, with the Header-Found Flag set. -/
def gathering (l : List Byte) : State := { State.reset with mem := memoryOf l, hf := true }

/-! ## Ill-formed terms are refused -/

theorem test_wf_offset_too_wide : (Instr.rdU8 [] 65536).wf = false := by decide
theorem test_wf_custom_number : (Instr.ckCustom 65536 []).wf = false := by decide
theorem test_wf_type_number : (Instr.xmit 65536 none []).wf = false := by decide
theorem test_wf_command_number : (Instr.encodeFrame 0 (some 65536) []).wf = false := by decide
theorem test_wf_header_empty :
    (Instr.frameGeneral { hdr := [], lenField := [], cmd := [], payload := [], ck := [], tail := [] }).wf = false := by
  decide
theorem test_wf_header_five :
    (Instr.frameGeneral { hdr := [1, 2, 3, 4, 5], lenField := [], cmd := [], payload := [], ck := [], tail := [] }).wf =
      false := by decide
theorem test_wf_length_field_three :
    (Instr.frameGeneral { hdr := [1], lenField := [1, 2, 3], cmd := [], payload := [], ck := [], tail := [] }).wf =
      false := by decide
theorem test_wf_command_three :
    (Instr.frameGeneral { hdr := [1], lenField := [], cmd := [1, 2, 3], payload := [], ck := [], tail := [] }).wf =
      false := by decide
theorem test_wf_checksum_two :
    (Instr.frameGeneral { hdr := [1], lenField := [], cmd := [], payload := [], ck := [1, 2], tail := [] }).wf =
      false := by decide
theorem test_wf_tail_five :
    (Instr.frameGeneral { hdr := [1], lenField := [], cmd := [], payload := [], ck := [], tail := [1, 2, 3, 4, 5] }).wf =
      false := by decide
theorem test_wf_p1_too_long : (Instr.frameP1 0 (List.replicate 254 0)).wf = false := by decide +kernel
theorem test_wf_p2_header : (Instr.frameP2 [1, 2, 3] 0 [] [1, 2, 3, 4]).wf = false := by decide
theorem test_wf_p2_tail : (Instr.frameP2 [1, 2, 3, 4] 0 [] [1, 2, 3]).wf = false := by decide
theorem test_wf_p2_command : (Instr.frameP2 [1, 2, 3, 4] 65536 [] [1, 2, 3, 4]).wf = false := by decide
theorem test_wf_p3_body : (Instr.frameP3 0xA5 [1, 2, 3, 4, 5, 6]).wf = false := by decide
theorem test_wf_p4_records : (Instr.layoutP4 2 0 [1, 2, 3, 4, 5, 6, 7, 8, 9]).wf = false := by decide
theorem test_wf_field_sink : (Instr.field [] 65536 0 .u8 none).wf = false := by decide
theorem test_wf_field_scale : (Instr.field [] 0 0 .u8 (some 65536)).wf = false := by decide
theorem test_wf_bitfield_high : (Instr.bitfield [] 0 0 8 0 0).wf = false := by decide
theorem test_wf_bitfield_order : (Instr.bitfield [] 0 0 2 3 0).wf = false := by decide
theorem test_wf_targets_item : (Instr.targets [] 0 [.bitfield 0 0 8 0 0]).wf = false := by decide
theorem test_wf_log_tag : (Instr.log (.other 65535)).wf = false := by decide

/-- A profile R10 does not admit: item (c), two types with one first byte. -/
theorem test_profile_first_bytes :
    ({ Config.resetProfile.raw with types := [p1Type [], p1Type []] } : Config.Profile).wf = false := by decide

/-- Item (e): a length base below header, length field and tail. -/
theorem test_profile_base :
    ({ Config.resetProfile.raw with types := [{ p1Type [] with lenMode := .field 1 .le 4 }] } : Config.Profile).wf =
      false := by decide

/-- Item (h): a buffer that does not hold the length field. -/
theorem test_profile_capacity :
    ({ Config.resetProfile.raw with bufCap := some 2 } : Config.Profile).wf = false := by decide

/-- R227: a table of three entries for a two-bit field. -/
theorem test_profile_table :
    ({ tp1.raw with bitmaps := [[0, 1, 2]] } : Config.Profile).wf = false := by decide

/-! ## Decoding: the codes of R102, R105, R106, R108 and the layouts of R85 to R88, written out

The first byte is the code as the spec's table writes it, the second the table (log 5). -/

theorem test_decode_halt : decode [0b1000000, 1] = some .halt := by decide
theorem test_decode_reject : decode [0b0010000, 1] = some .reject := by decide
theorem test_decode_dispatch : decode [0b0110011, 1] = some .dispatch := by decide
theorem test_decode_unknown : decode [0b0110010, 1] = some .unknown := by decide
theorem test_decode_idle : decode [0b0100000, 1] = some .idle := by decide
theorem test_decode_discard : decode [0b0001000, 1] = some .discard := by decide
theorem test_decode_sync : decode [0b0001100, 1] = some .sync := by decide
theorem test_decode_append : decode [0b0101100, 1] = some .append := by decide
theorem test_decode_rdU8 : decode [0b0000, 2, 1, 0, 0x80, 3, 0] = some (.rdU8 [0x80] 3) := by decide
theorem test_decode_rdI8 : decode [0b1000, 2, 1, 0, 0x80, 0, 0] = some (.rdI8 [0x80] 0) := by decide
theorem test_decode_rdU16le : decode [0b0010, 2, 2, 0, 0x34, 0x12, 0, 0] = some (.rdU16le [0x34, 0x12] 0) := by decide
theorem test_decode_rdU16be : decode [0b0011, 2, 2, 0, 0x34, 0x12, 0, 0] = some (.rdU16be [0x34, 0x12] 0) := by decide
theorem test_decode_rdI16le : decode [0b1010, 2, 0, 0, 1, 2] = some (.rdI16le [] 513) := by decide
theorem test_decode_rdI16be : decode [0b1011, 2, 0, 0, 1, 0] = some (.rdI16be [] 1) := by decide
theorem test_decode_rdU32le : decode [0b0100, 2, 0, 0, 1, 0] = some (.rdU32le [] 1) := by decide
theorem test_decode_rdU32be : decode [0b0101, 2, 0, 0, 1, 0] = some (.rdU32be [] 1) := by decide
theorem test_decode_rdI32le : decode [0b1100, 2, 0, 0, 1, 0] = some (.rdI32le [] 1) := by decide
theorem test_decode_rdI32be : decode [0b1101, 2, 0, 0, 1, 0] = some (.rdI32be [] 1) := by decide
theorem test_decode_reserved_kinds :
    [0b0001, 0b1001, 0b0110, 0b0111, 0b1110, 0b1111].map (fun c => decode [c, 2]) =
      [some .reservedKind0001, some .reservedKind1001, some .reservedKind0110, some .reservedKind0111,
        some .reservedKind1110, some .reservedKind1111] := by decide
theorem test_decode_ckNone : decode [0b00, 3, 1, 0, 7] = some (.ckNone [7]) := by decide
theorem test_decode_ckSum8 : decode [0b01, 3, 1, 0, 7] = some (.ckSum8 [7]) := by decide
theorem test_decode_ckNeg8 : decode [0b10, 3, 1, 0, 7] = some (.ckNeg8 [7]) := by decide
theorem test_decode_ckCustom : decode [0b11, 3, 2, 0, 1, 0, 7] = some (.ckCustom 2 [7]) := by decide
theorem test_decode_nop : decode [0b000, 4] = some .nop := by decide
theorem test_decode_poll : decode [0b001, 4] = some .poll := by decide
theorem test_decode_reset : decode [0b010, 4] = some .reset := by decide
theorem test_decode_markFailed : decode [0b011, 4] = some .markFailed := by decide
theorem test_decode_xmit : decode [0b100, 4, 0, 0, 0, 0x11, 0, 1, 0, 9] = some (.xmit 0 (some 0x11) [9]) := by decide
theorem test_decode_xchg : decode [0b101, 4, 1, 0, 1, 1, 0, 9] = some (.xchg 1 none [9]) := by decide
theorem test_decode_reserved_host :
    decode [0b110, 4] = some .reservedHost110 ∧ decode [0b111, 4] = some .reservedHost111 := by decide
theorem test_decode_frameGeneral : decode [0, 5, 1, 1, 1, 1, 1, 0xA5, 2, 3, 4, 5, 6] =
    some (.frameGeneral
      { hdr := [0xA5], lenField := [2], cmd := [3], payload := [4], ck := [5], tail := [6] }) := by decide
theorem test_decode_frameP1 : decode ([1, 5] ++ frameReset) = some (.frameP1 0x11 [0x77]) := by decide
theorem test_decode_frameP2 :
    decode [2, 5, 0xA1, 0xA2, 0xA3, 0xA4, 3, 0, 0x10, 0, 0x2A, 0xB1, 0xB2, 0xB3, 0xB4] =
      some (.frameP2 [0xA1, 0xA2, 0xA3, 0xA4] 0x10 [0x2A] [0xB1, 0xB2, 0xB3, 0xB4]) := by decide
theorem test_decode_frameP3 : decode [3, 5, 0xA5, 0x86, 0x00, 0x01, 0x2C, 0x07, 0xD0, 0x00, 0x76] =
    some (.frameP3 0xA5 [0x86, 0x00, 0x01, 0x2C, 0x07, 0xD0, 0x00]) := by decide
theorem test_decode_layoutP4 : decode [4, 5, 1, 9, 1, 2, 3, 4] = some (.layoutP4 1 9 [1, 2, 3, 4]) := by decide
theorem test_decode_field :
    decode [0, 6, 1, 0, 7, 5, 0, 0, 0, 0b1010, 1, 4, 0] = some (.field [7] 5 0 .i16le (some 4)) := by decide
theorem test_decode_bitfield :
    decode [1, 6, 1, 0, 7, 5, 0, 0, 0, 7, 6, 0, 0] = some (.bitfield [7] 5 0 7 6 0) := by decide
theorem test_decode_targets : decode [2, 6, 0, 0, 0, 0, 1, 0, 0, 5, 0, 0, 0, 0b0010, 0] =
    some (.targets [] 0 [.field 5 0 .u16le none]) := by decide
theorem test_decode_log : decode [3, 6, 0, 0] = some (.log .factoryReset) := by decide
theorem test_decode_cmd : decode [0x11, 7] = some .cmdP1FactoryReset := by decide
theorem test_decode_encode : decode [0, 8, 0, 0, 0, 0x11, 0, 0, 0] = some (.encodeFrame 0 (some 0x11) []) := by decide

/-- Words that are no operation: no table, a code no table has, a byte too many, a wrong checksum. -/
theorem test_decode_refuses :
    decode [] = none ∧ decode [0, 9] = none ∧ decode [16, 2] = none ∧ decode [1, 4, 0] = none ∧
      decode ([1, 5] ++ frameBad ++ [0]) = none ∧ decode [1, 5, 0xFA, 0xFB, 3, 0, 0x5A, 0x5B, 0xFC, 0xFD] = none := by
  decide

/-! ## One step of each operation (the vectors of 95_test_vectors) -/

/-- V22. -/
theorem test_halt : (after (exec .poll { gathering frameG with failed := true })).map State.trace = some [] := by decide

/-- V2. -/
theorem test_reject : events .reject (gathering frameBad) = some [.warn (.malformed .checksum)] := by decide
theorem test_reject_ends : ends .reject (gathering frameBad) = some ([], false, true, false) := by decide

/-- V3. -/
theorem test_dispatch :
    events .dispatch (gathering frameReset) = some [.frame 0 (some 0x11) [0x77], .logInfo .factoryReset] := by decide
theorem test_dispatch_ends : ends .dispatch (gathering frameReset) = some ([], false, false, false) := by decide

/-- V11. -/
theorem test_unknown :
    events .unknown (gathering frameUnknown) = some [.frame 0 (some 0x22) [0xAA], .logUnknown 0 (some 0x22)] := by decide

/-- R222: bytes after the frame stay. -/
theorem test_unknown_leaves_the_rest :
    ends .unknown (gathering (frameUnknown ++ [0xFA])) = some ([0xFA], true, false, false) := by decide

/-- V21. -/
theorem test_idle : ends .idle (gathering [0xFA, 0xFB]) = some ([0xFA, 0xFB], true, false, false) := by decide

/-- V26. -/
theorem test_discard : (after (exec .discard (feeding [0x00, 0xFA]))).map State.q = some [0xFA] := by decide
theorem test_sync : ends .sync { feeding [0xFA, 0x00] with warn := true } = some ([0xFA], true, true, false) := by decide
theorem test_append :
    ends .append { gathering [0xFA] with q := [0xFA] } = some ([0xFA, 0xFA], true, false, false) := by decide

/-- V26: DISCARD is not selected where SYNC is. -/
theorem test_discard_refused : after (exec .discard (feeding [0xFA])) = none := by decide

/-- The examples of R243 to R251. -/
theorem test_rdU8 : shows (.rdU8 [0x80] 0) = some (.int 128) := by decide
theorem test_rdI8 : shows (.rdI8 [0x80] 0) = some (.int (-128)) := by decide
theorem test_rdU16le : shows (.rdU16le [0x34, 0x12] 0) = some (.int 4660) := by decide
theorem test_rdU16be : shows (.rdU16be [0x34, 0x12] 0) = some (.int 13330) := by decide
theorem test_rdI16le : shows (.rdI16le [0x00, 0x80] 0) = some (.int (-32768)) := by decide
theorem test_rdI16be : shows (.rdI16be [0xFF, 0xFE] 0) = some (.int (-2)) := by decide
theorem test_rdU32le : shows (.rdU32le [0x78, 0x56, 0x34, 0x12] 0) = some (.int 305419896) := by decide
theorem test_rdU32be : shows (.rdU32be [0x12, 0x34, 0x56, 0x78] 0) = some (.int 305419896) := by decide
theorem test_rdI32le : shows (.rdI32le [0x00, 0x00, 0x00, 0x80] 0) = some (.int (-2147483648)) := by decide
theorem test_rdI32be : shows (.rdI32be [0xFF, 0xFF, 0xFF, 0xFF] 0) = some (.int (-1)) := by decide

/-- R241: the guard. -/
theorem test_rdU16le_short : shows (.rdU16le [0x34, 0x12] 1) = some .nothing := by decide

/-- The examples of R181 and R182. -/
theorem test_ckSum8 : shows (.ckSum8 [0x11, 0x01, 0x02]) = some (.byte 0x14) := by decide
theorem test_ckSum8_wraps : shows (.ckSum8 [0xFF, 0x02]) = some (.byte 0x01) := by decide
theorem test_ckNeg8 : shows (.ckNeg8 [0x01, 0x86, 0, 0, 0, 0, 0]) = some (.byte 0x79) := by decide
theorem test_ckNeg8_zero : shows (.ckNeg8 [0x80, 0x80]) = some (.byte 0x00) := by decide
theorem test_ckNone : shows (.ckNone [0x80]) = some .nothing := by decide

/-- V20, V1 (TP1: 0x00 is known; TP1s: it is not), V23 with budget 1. -/
theorem test_poll : events .poll { feeding frameG with profile := tp1 } = some [.frame 0 (some 0x00) [0x5A]] := by
  decide +kernel
theorem test_poll_budget : ends .poll { feeding frameG with profile := tpBudget } = some ([0xFA], true, false, false) := by
  decide +kernel

/-- R330. -/
theorem test_reset :
    ends .reset { gathering [0xFA, 0xFB, 0x03] with failed := true } = some ([], false, false, false) := by decide
theorem test_reset_keeps_queue : (after (exec .reset (feeding [1, 2]))).map State.q = some [1, 2] := by decide

/-- R331. -/
theorem test_markFailed : ends .markFailed (gathering [0xFA]) = some ([0xFA], true, false, true) := by decide

/-- R271's example, R274. -/
theorem test_encode : shows (.encodeFrame 0 (some 0x11) [0x01, 0x02]) =
    some (.bytes [0xFA, 0xFB, 0x04, 0x11, 0x01, 0x02, 0x14, 0xFC, 0xFD]) := by decide
theorem test_xmit : events (.xmit 0 (some 0x11) []) State.reset =
    some [.tx [0xFA, 0xFB, 0x02, 0x11, 0x11, 0xFC, 0xFD], .flush] := by decide

/-- V53: a time-out. -/
theorem test_xchg_timeout : events (.xchg 0 (some 0x11) []) (feeding [0xFA]) =
    some [.tx [0xFA, 0xFB, 0x02, 0x11, 0x11, 0xFC, 0xFD], .flush, .warn .timeout] := by decide +kernel

/-- R85 to R88: the layouts on the wire. -/
theorem test_frameP1 : (after (exec (.frameP1 0x00 [0x5A]) State.reset)).map State.q = some frameG := by decide
theorem test_frameP2 :
    (after (exec (.frameP2 [0xA1, 0xA2, 0xA3, 0xA4] 1 [0, 0, 0x78, 0x56, 0x34, 0x12] [0xB1, 0xB2, 0xB3, 0xB4])
      State.reset)).map State.q =
    some [0xA1, 0xA2, 0xA3, 0xA4, 8, 0, 1, 0, 0, 0, 0x78, 0x56, 0x34, 0x12, 0xB1, 0xB2, 0xB3, 0xB4] := by decide
theorem test_frameP3 : (after (exec (.frameP3 0xA5 [0x86, 0x00, 0x01, 0x2C, 0x07, 0xD0, 0x00]) State.reset)).map State.q =
    some [0xA5, 0x86, 0x00, 0x01, 0x2C, 0x07, 0xD0, 0x00, 0x76] := by decide

/-- R217: `hum`, sink 1, is absent. -/
theorem test_field : events (.field [0xFE, 0xFF] 0 0 .i16le none) State.reset =
    some [.publish { id := 0, target := none } (.num (-2))] := by decide
theorem test_field_absent : events (.field [0x64] 1 0 .u8 none) State.reset = some [] := by decide

/-- R227: bits 7:6 of 0x82 are 2. -/
theorem test_bitfield : events (.bitfield [0x82] 4 0 7 6 0) State.reset =
    some [.publish { id := 4, target := none } (.enum 2)] := by decide
theorem test_bitfield_short : events (.bitfield [] 4 0 7 6 0) State.reset =
    some [.warn (.short (.sink { id := 4, target := none }))] := by decide

/-- V8 with one field per record, cut to a payload that holds one record of two. -/
theorem test_targets : events (.targets [2, 0, 0xE8, 0x03, 0x05, 0xFF, 0xF6] 0 [.field 5 0 .u16le none]) State.reset =
    some [.warn (.trunc 2 1), .publish { id := 5, target := some 0 } (.num 1000)] := by decide

/-- R214, R216. -/
theorem test_log : events (.log (.other 3)) State.reset = some [.logInfo (.other 3)] := by decide
theorem test_cmd : events .cmdP1FactoryReset State.reset = some [.logInfo .factoryReset] := by decide

/-- TP3: a fixed-length frame with a big-endian field (V9); here sink 1 is absent, so `full` is not published. -/
theorem test_dispatch_fixed :
    events .dispatch { gathering [0xA5, 0x86, 0x00, 0x01, 0x2C, 0x07, 0xD0, 0x00, 0x76] with profile := tp3 } =
      some [.frame 0 (some 0x86) [0x00, 0x01, 0x2C, 0x07, 0xD0, 0x00],
        .publish { id := 0, target := none } (.num 300)] := by decide +kernel

/-- R166, R190: a total above the capacity is ready at once and rejected. -/
theorem test_reject_oversize :
    events .reject { gathering [0xFA, 0xFB, 0x03] with profile := tpSmall } = some [.warn (.malformed .oversize)] := by
  decide

/-- R32: STATUS in a degraded, gathering state. -/
theorem test_status : ({ gathering [0xFA] with warn := true } : State).status = 0b0011 := by decide

/-! ## For each obligation with hypotheses, a state and operands that meet them

Named after the obligation; a clause of its own gets a witness of its own, at a boundary value of its range. -/

/-- A frame the block takes as valid, with the state it stands in. -/
def good : State := gathering frameReset

/-- The front of `good`. -/
def goodFront : Front := { t := 0, ty := p1Type Config.p1Handlers, total := 8, cmd := some 0x11, payload := [0x77] }

theorem witness_SelectionWordBits :
    State.reset.hf = false ∧ State.reset.avail = false ∧ (gathering [0xFA]).ready = false ∧
      (gathering frameBad).ready = true ∧ (gathering frameBad).valid = false := by decide

theorem witness_ExactlyTheSelectedMicroOperationRuns : MicroOp.halt ≠ State.reset.select := by decide

theorem witness_HaltChangesNothing : ({ good with failed := true, q := [1] } : State).failed = true := by decide

/-- With a partial frame and an arrival of no bytes. -/
theorem witness_IdleChangesNothing :
    let s : State := { gathering [0xFA, 0xFB] with future := [[], [3]] }
    s.failed = false ∧ s.ready = false ∧ s.q = [] ∧ s.arrive.q = [] := by decide

theorem witness_PollRunsMicroStepsUntilIdleHaltOrBudget_infinite : good.prof.pollBudget = none := by decide
theorem witness_PollRunsMicroStepsUntilIdleHaltOrBudget_bounded :
    ({ good with profile := tpBudget } : State).prof.pollBudget = some 1 := by decide

theorem witness_PollReachesQuiescenceWithinBound : (feeding frameG).prof.pollBudget = none := by decide

/-- One chunk and no budget against chunks, an empty one among them, and a budget of one. -/
theorem witness_GroupingIndependence :
    let s := feeding frameReset
    let s' : State := { State.reset with profile := tpBudget, q := [0xFA], future := [[], [0xFB, 0x03], frameReset.drop 3] }
    SameOutcome s s' ∧ SameButBudget s.prof s'.prof ∧ s.stream = s'.stream ∧ (polls 1 s).drained ∧
      (polls 12 s').drained := by
  refine ⟨⟨rfl, rfl, rfl, rfl, rfl⟩, rfl, by decide, ⟨?_, ?_⟩, ⟨?_, ?_⟩⟩ <;> decide +kernel

theorem witness_OnePollAgreesWithByteAtATime :
    let s := gathering [0xFA]
    s.prof.pollBudget = none ∧ s.future = [] ∧ s.q = [] ∧ s.quiescent = true := by decide

/-- 0xFB is the second header byte and no first one; 0xFA is the first. -/
theorem witness_DiscardDropsOneNoiseByte :
    let s := feeding [0xFB]
    s.failed = false ∧ s.hf = false ∧ s.q = [0xFB] ∧ isFirst s.prof 0xFB = false := by decide
theorem witness_SyncMarksAndAppends :
    let s := feeding [0xFA]
    s.failed = false ∧ s.hf = false ∧ s.q = [0xFA] ∧ isFirst s.prof 0xFA = true := by decide
theorem witness_AppendTakesAnyByte :
    let s : State := { gathering [0xFA] with q := [0xFA, 1] }
    s.failed = false ∧ s.hf = true ∧ s.ready = false ∧ s.q = [0xFA, 1] := by decide

/-- The last byte that fits a buffer of eight. -/
theorem witness_AppendSelectedOnlyWithRoom :
    ({ gathering (frameG.take 7) with profile := tpExact, q := [0xFD] } : State).select = .append := by decide

/-- Each ground of readiness, with a total equal to the capacity and one above it, and a state that is not ready. -/
theorem witness_ReadyExactlyWhenSomethingCanBeDone :
    (gathering [0x00]).ready = true ∧ ({ gathering [0xFA, 0xFB, 0x03] with profile := tpSmall } : State).ready = true ∧
      ({ gathering frameG with profile := tpExact } : State).ready = true ∧
      ({ gathering (frameG.take 7) with profile := tpExact } : State).ready = false := by decide

theorem witness_TypeAndTotalStayWhileGathering :
    ftype Config.resetProfile.raw [0xFA] = some (0, p1Type Config.p1Handlers) ∧
      total Config.resetProfile.raw [0xFA, 0xFB, 0x03] = some 8 := by decide

/-- Two header bytes: the length field is not buffered. -/
theorem witness_TotalIsLengthFieldPlusBase_unknown : lenKnown Config.resetProfile.raw [0xFA, 0xFB] = false := by decide
theorem witness_TotalIsLengthFieldPlusBase_fixed :
    let p := { Config.resetProfile.raw with types := [p3Type [0xA5] 0 .le []] }
    ftype p [0xA5] = some (0, p3Type [0xA5] 0 .le []) ∧ (p3Type [0xA5] 0 .le []).lenMode = .fixed 9 := by decide
theorem witness_TotalIsLengthFieldPlusBase_one_byte :
    let t := p1Type []
    let p := { Config.resetProfile.raw with types := [t] }
    let l : List Byte := [0xFA, 0xFB, 0xFF]
    ftype p l = some (0, t) ∧ t.lenMode = .field 1 .le 5 ∧ l[t.hdr.length]? = some 0xFF := by decide
theorem witness_TotalIsLengthFieldPlusBase_one_byte_big_endian :
    let t := { p1Type [] with lenMode := .field 1 .be 5 }
    let p := { Config.resetProfile.raw with types := [t] }
    let l : List Byte := [0xFA, 0xFB, 0x00]
    ftype p l = some (0, t) ∧ t.lenMode = .field 1 .be 5 ∧ l[t.hdr.length]? = some 0x00 := by decide
theorem witness_TotalIsLengthFieldPlusBase_little_endian :
    let t := p2Type [1, 2, 3, 4] [] []
    let p := { Config.resetProfile.raw with types := [t] }
    let l : List Byte := [1, 2, 3, 4, 0xFF, 0xFF]
    ftype p l = some (0, t) ∧ t.lenMode = .field 2 .le 10 ∧ l[t.hdr.length]? = some 0xFF ∧
      l[t.hdr.length + 1]? = some 0xFF := by decide
theorem witness_TotalIsLengthFieldPlusBase_big_endian :
    let t := { p2Type [1, 2, 3, 4] [] [] with lenMode := .field 2 .be 10 }
    let p := { Config.resetProfile.raw with types := [t] }
    let l : List Byte := [1, 2, 3, 4, 0x01, 0x00]
    ftype p l = some (0, t) ∧ t.lenMode = .field 2 .be 10 ∧ l[t.hdr.length]? = some 0x01 ∧
      l[t.hdr.length + 1]? = some 0x00 := by decide

/-- The lowest and the highest bit, the first and the last byte; two orders of the same bytes. -/
theorem witness_ChecksumLaws :
    [(0x11 : Byte), 0x01][0]? = some 0x11 ∧ 0 < 8 ∧ [(0x11 : Byte), 0x01][1]? = some 0x01 ∧ 7 < 8 ∧
      [(0x11 : Byte), 0x01].Perm [0x01, 0x11] := by decide

theorem witness_RejectCauseIsTheFirstThatApplies_no_type : ftype tp1.raw [0x00] = none := by decide
theorem witness_RejectCauseIsTheFirstThatApplies_oversize :
    ftype tpSmall.raw [0xFA, 0xFB, 0x03] = some (0, p1Type Config.p1Handlers) ∧
      totalOf (p1Type Config.p1Handlers) [0xFA, 0xFB, 0x03] = some 8 ∧
      Config.withinCap tpSmall.raw.bufCap 8 = false := by decide

/-- A total equal to the capacity and to the buffer's length. -/
theorem witness_RejectCauseIsTheFirstThatApplies_checks :
    ftype tpExact.raw frameBad = some (0, p1Type Config.p1Handlers) ∧
      totalOf (p1Type Config.p1Handlers) frameBad = some 8 ∧ Config.withinCap tpExact.raw.bufCap 8 = true ∧
      8 ≤ frameBad.length := by decide

theorem witness_RejectClearsTheBuffer :
    let s := gathering frameBad
    s.failed = false ∧ s.ready = true ∧ rejectCause s.prof s.buf = some .checksum := by decide

/-- The command byte, the first one covered, and the checksum byte, the last one. -/
theorem witness_SingleBitFlipIsRejected :
    good.failed = false ∧ good.valid = true ∧ good.front = some goodFront ∧ goodFront.ty.ckFn = .sum8 ∧
      cmdOff goodFront.ty ≤ 3 ∧ goodFront.ty.ckStart ≤ 3 ∧ 3 ≤ ckOff goodFront.ty goodFront.total ∧
      good.buf[3]? = some 0x11 ∧ 5 ≤ ckOff goodFront.ty goodFront.total ∧ good.buf[5]? = some 0x88 ∧ 7 < 8 := by decide
theorem witness_SingleBitFlipIsRejected_neg8 :
    let s : State := { gathering [0xA5, 0x86, 0x00, 0x01, 0x2C, 0x07, 0xD0, 0x00, 0x76] with profile := tp3 }
    ∃ f, s.front = some f ∧ s.failed = false ∧ s.valid = true ∧ f.ty.ckFn = .neg8 ∧ cmdOff f.ty ≤ 8 ∧
      f.ty.ckStart ≤ 8 ∧ 8 ≤ ckOff f.ty f.total ∧ s.buf[8]? = some 0x76 :=
  ⟨_, rfl, by decide⟩

theorem witness_ValidFrameHasItsFields : good.valid = true := by decide
theorem witness_ValidFrameHasItsFields_no_command :
    ({ gathering [0xA5, 0, 0, 0, 0, 0, 0, 0, 0] with profile := tpBare } : State).valid = true := by decide

theorem witness_DispatchRunsHandlerAndErases :
    good.failed = false ∧ good.valid = true ∧ good.front = some goodFront ∧
      (goodFront.cmd, [Item.log .factoryReset]) ∈ goodFront.ty.handlers := by decide
theorem witness_UnknownLogsAndErases :
    let s := gathering frameUnknown
    s.failed = false ∧ s.valid = true ∧
      s.front = some { t := 0, ty := p1Type Config.p1Handlers, total := 8, cmd := some 0x22, payload := [0xAA] } ∧
      ∀ items, (some 0x22, items) ∉ (p1Type Config.p1Handlers).handlers := by
  refine ⟨by decide, by decide, by decide, fun items h => ?_⟩
  simp [p1Type, Config.p1Handlers] at h

/-- One byte too few, exactly enough, and an absent sink. -/
theorem witness_FieldPublishesOrWarnsShort :
    readKind .u16le [0x34, 0x12] 1 = none ∧ readKind .u16le [0x34, 0x12] 0 = some 4660 ∧
      sinkPresent State.reset.prof { id := 0, target := none } = true ∧
      sinkPresent State.reset.prof { id := 1, target := none } = false := by decide

theorem witness_BitfieldPublishesTableEntry :
    State.reset.prof.bitmaps[0]? = some [0, 1, 2, 3] ∧ 7 ≤ 7 ∧ 6 ≤ 7 ∧ [0, 1, 2, 3].length = 2 ^ (7 - 6 + 1) ∧
      [(0x82 : Byte)].length ≤ 1 ∧ [(0x82 : Byte)][0]? = some 0x82 := by decide
theorem witness_BitfieldPublishesTableEntry_refused :
    7 < 8 ∧ 0 < 1 ∧ (State.reset.prof.bitmaps[0]?).map List.length ≠ some (2 ^ (2 - 0 + 1)) ∧
      (State.reset.prof.bitmaps[1]?).map List.length ≠ some (2 ^ (1 - 0 + 1)) := by decide

/-- A region one byte short of its two head bytes, and one that is only they. -/
theorem witness_TargetsReadsBoundedRecords :
    ([RecItem.field 5 0 .u16le none]).all (Config.recItemOk State.reset.prof.bitmaps) = true ∧
      ([RecItem.bitfield 5 0 2 0 0]).all (Config.recItemOk State.reset.prof.bitmaps) = false ∧
      [(2 : Byte)].length < 0 + 2 ∧ 0 + 2 ≤ [(2 : Byte), 0].length ∧ [(2 : Byte), 0][0]? = some 2 := by decide

/-- The last byte of a string of one, of two and of four. -/
theorem witness_UnsignedReadsGiveTheirValue :
    [(0xFF : Byte)][0]? = some 0xFF ∧ [(0x34 : Byte), 0x12][0 + 1]? = some 0x12 ∧
      [(0x78 : Byte), 0x56, 0x34, 0x12][0 + 2]? = some 0x34 ∧
      [(0x78 : Byte), 0x56, 0x34, 0x12][0 + 3]? = some 0x12 := by decide
theorem witness_SignedReadsGiveTheirValue :
    [(0x80 : Byte)][0]? = some 0x80 ∧ [(0x00 : Byte), 0x80][0 + 1]? = some 0x80 ∧
      [(0xFF : Byte), 0xFF, 0xFF, 0x7F][0 + 2]? = some 0xFF ∧
      [(0xFF : Byte), 0xFF, 0xFF, 0x7F][0 + 3]? = some 0x7F := by decide

/-- One byte short at each width, the empty string among them. -/
theorem witness_ShortReadsGiveNothing :
    ([] : List Byte).length < 0 + 1 ∧ [(1 : Byte)].length < 0 + 2 ∧ [(1 : Byte), 2, 3].length < 0 + 4 := by decide

theorem witness_EncodeBuildsTheWireLayouts :
    (List.replicate 253 (0 : Byte)).length ≤ 253 ∧ [(1 : Byte), 2, 3, 4].length = 4 ∧ 65535 < 65536 ∧
      ([] : List Byte).length ≤ 65533 ∧ [(1 : Byte), 2, 3, 4, 5, 6, 7].length = 7 := by
  decide +kernel

/-- P3 with a header of one byte, and with one of four, at each width of the command. -/
theorem witness_EncodeBuildsTheWireLayouts_p3 :
    (([] : List Byte) ++ [1, 2, 3, 4, 5, 6, 7]).length = 7 ∧ ([(1 : Byte), 2, 3] ++ 0x86 :: [5, 6, 7]).length = 7 ∧
      ([(1 : Byte), 2, 3] ++ 0x86 :: 0x01 :: [6, 7]).length = 7 := by decide

theorem witness_EncodeDefinedWithinPreconditions :
    encodeType (p1Type []) (some 0xFF) [] = some [0xFA, 0xFB, 0x02, 0xFF, 0xFF, 0xFC, 0xFD] := by decide

/-- A command that fits and one that does not. -/
theorem witness_XmitWritesAndFlushes :
    encodeRequest State.reset.prof 0 (some 0xFF) [] = some [0xFA, 0xFB, 0x02, 0xFF, 0xFF, 0xFC, 0xFD] ∧
      encodeRequest State.reset.prof 0 (some 0x100) [] = none := by decide

/-- A frame as long as the capacity. -/
theorem witness_RoundTrip :
    let s : State := { State.reset with profile := tpExact, warn := true }
    s.prof.pollBudget = none ∧ s.failed = false ∧ s.hf = false ∧ s.mem = [] ∧ s.q = [] ∧ s.future = [] ∧
      encodeRequest s.prof 0 (some 0x11) [0x77] = some frameReset ∧
      Config.withinCap s.prof.bufCap frameReset.length = true := by decide

/-- No noise, and noise of both other header and tail bytes. -/
theorem witness_Resynchronization :
    let s := State.reset
    s.prof.pollBudget = none ∧ s.failed = false ∧ s.hf = false ∧ s.mem = [] ∧ s.q = [] ∧ s.future = [] ∧
      (∀ b ∈ ([] : List Byte), isFirst s.prof b = false) ∧
      (∀ b ∈ [(0xFB : Byte), 0xFC, 0xFD], isFirst s.prof b = false) ∧ ValidFrame s frameG := by
  refine ⟨rfl, rfl, rfl, rfl, rfl, rfl, ?_, ?_, ⟨?_, ?_⟩⟩ <;> decide

theorem witness_TwoFramesInOneChunk :
    let s := State.reset
    s.prof.pollBudget = none ∧ s.failed = false ∧ s.hf = false ∧ s.mem = [] ∧ s.q = [] ∧ s.future = [] ∧
      ValidFrame s frameReset ∧ ValidFrame s frameUnknown := by
  refine ⟨rfl, rfl, rfl, rfl, rfl, rfl, ⟨?_, ?_⟩, ⟨?_, ?_⟩⟩ <;> decide

/-- The highest bits of a byte, and the entry of the last index; a table that names a meaning twice. -/
theorem witness_PackedBitsDecodeBack :
    packBits State.reset.prof 7 6 0 3 0x15 = some 0xD5 ∧ (5 < 6 ∨ 7 < 5) ∧ (8 < 6 ∨ 7 < 8) ∧
      State.reset.prof.bitmaps[0]? = some [0, 1, 2, 3] ∧
      Config.recItemOk State.reset.prof.bitmaps (.bitfield 0 0 7 6 0) = true ∧ [0, 1, 2, 3].Nodup ∧
      3 ∈ [0, 1, 2, 3] ∧ ¬ [0, 1, 1, 3].Nodup := by decide

/-- A reply that is valid, one with a wrong checksum, one of no type. -/
theorem witness_ExchangeDecodesItsReply :
    let s := feeding (frameReset ++ [1])
    s.xchgAdmitted = true ∧
      encodeRequest s.prof 0 (some 0x11) [] = some [0xFA, 0xFB, 0x02, 0x11, 0x11, 0xFC, 0xFD] ∧
      s.future = [] ∧ s.q = frameReset ++ [1] ∧ frameReset.length = s.prof.replyLen ∧
      ftype s.prof frameReset = some (0, p1Type Config.p1Handlers) ∧
      frameCause (p1Type Config.p1Handlers) frameReset s.prof.replyLen = none ∧
      frameCause (p1Type Config.p1Handlers) frameBad s.prof.replyLen = some .checksum ∧
      frameBad.length = s.prof.replyLen ∧ ftype s.prof (0 :: frameG.drop 1) = none ∧
      (0 :: frameG.drop 1).length = s.prof.replyLen := by decide

/-- One byte short of a reply. -/
theorem witness_ExchangeTimesOut :
    let s := feeding (frameReset.take 7)
    s.xchgAdmitted = true ∧
      encodeRequest s.prof 0 (some 0x11) [] = some [0xFA, 0xFB, 0x02, 0x11, 0x11, 0xFC, 0xFD] ∧
      s.future = [] ∧ s.q.length < s.prof.replyLen := by decide

/-- A reply of eight bytes that arrives in two parts with an empty look before each, the bound being three. -/
theorem witness_ExchangeWaitsForItsReplyOrAborts_reply :
    let s : State := { State.reset with future := [[], frameReset.take 1, [], frameReset.drop 1] }
    s.xchgAdmitted = true ∧
      encodeRequest s.prof 0 (some 0x11) [] = some [0xFA, 0xFB, 0x02, 0x11, 0x11, 0xFC, 0xFD] ∧ ReplyComesAt s 10 ∧
      (exchangeLooks 10 s []).2 = frameReset ∧ ftype s.prof frameReset = some (0, p1Type Config.p1Handlers) ∧
      frameCause (p1Type Config.p1Handlers) frameReset s.prof.replyLen = none := by
  refine ⟨by decide, by decide, ⟨by decide, by decide, by decide⟩, by decide, by decide, by decide⟩

/-- One byte that arrives after two empty looks, and then none: the abort is at the third empty look. -/
theorem witness_ExchangeWaitsForItsReplyOrAborts_abort :
    let s : State := { State.reset with future := [[], [], [0xFA]] }
    s.xchgAdmitted = true ∧
      encodeRequest s.prof 0 (some 0x11) [] = some [0xFA, 0xFB, 0x02, 0x11, 0x11, 0xFC, 0xFD] ∧ AbortsAt s 4 := by
  refine ⟨by decide, by decide, ⟨by decide, by decide, by decide⟩⟩

/-- V52, a complete reply, with bytes that arrive during the wait (R280). -/
theorem test_xchg_waits : events (.xchg 0 (some 0x11) [])
    { State.reset with future := [[], frameReset.take 1, [], frameReset.drop 1] } =
      some [.tx [0xFA, 0xFB, 0x02, 0x11, 0x11, 0xFC, 0xFD], .flush, .frame 0 (some 0x11) [0x77],
        .logInfo .factoryReset] := by decide +kernel

theorem witness_ExchangeAlwaysEnds :
    ({ State.reset with xchg := .sent } : State).xchg ≠ .idle ∧ (gathering [0xFA]).hf = true ∧
      (gathering [0xFA]).len ≠ 0 ∧ State.reset.xchg = .idle ∧ State.reset.hf = false ∧ State.reset.len = 0 ∧
      encodeRequest State.reset.prof 0 (some 0x11) [] = some [0xFA, 0xFB, 0x02, 0x11, 0x11, 0xFC, 0xFD] ∧
      encodeRequest State.reset.prof 0 none [] = none := by decide

theorem witness_NopMarkFailedAndReservedCodes :
    exec .reset { State.reset with failed := true } = .next State.reset ∧
      ({ State.reset with failed := true } : State).failed = true ∧ State.reset.failed = false := ⟨rfl, rfl, rfl⟩

theorem witness_FailedSetAndClearedOnlyByHost :
    exec .markFailed State.reset = .next { State.reset with failed := true } ∧ State.reset.failed = false := ⟨rfl, rfl⟩

theorem witness_BufferBytesFrame_append :
    exec .append { gathering [0xFA] with q := [0xFB] } = .next (gathering [0xFA, 0xFB]) := rfl
theorem witness_BufferBytesFrame_dispatch :
    exec .dispatch (gathering (frameReset ++ [0xFA])) = .next
      { gathering [0xFA] with trace := [.frame 0 (some 0x11) [0x77], .logInfo .factoryReset] } := rfl
theorem witness_BufferBytesFrame_reset : exec .reset (gathering frameG) = .next State.reset := rfl
theorem witness_BufferBytesFrame_other : exec .nop (gathering frameG) = .next (gathering frameG) := rfl

theorem witness_ProfileConstantAndTraceGrows :
    step { State.reset with port := [[3, 4]] } = .next { State.reset with failed := true } := rfl

theorem witness_InputIsTakenInOrder :
    exec (.layoutP4 0 9 []) (feeding [1]) = .next (feeding [1, 0, 9]) ∧ exec .discard (feeding [1]) = .next State.reset :=
  ⟨rfl, rfl⟩

theorem witness_WarnWrittenOnlyWhereTheSpecSays :
    exec .reset { State.reset with warn := true } = .next State.reset ∧
      exec .reject (gathering frameBad) =
        .next { State.reset with warn := true, trace := [.warn (.malformed .checksum)] } := ⟨rfl, rfl⟩

/-- A state in the middle of a frame, with a byte waiting and the word of APPEND at the port. -/
theorem witness_InvariantKeptByEveryStep :
    let s : State := { gathering [0xFA] with q := [0xFB], port := [[0x28, 1]] }
    Inv s ∧ step s = .next (gathering [0xFA, 0xFB]) := by
  refine ⟨⟨?_, ?_, ?_, ?_, ?_, ?_⟩, rfl⟩
  · decide
  · decide
  · decide
  · decide
  · intro n h
    have : total Config.resetProfile.raw [0xFA] = some n := h
    rw [show total Config.resetProfile.raw [0xFA] = none by decide] at this
    cases this
  · decide

/-- Nothing presented, a word that is an operation, a word that is none. -/
theorem witness_StepRunsTheDecodedOperation :
    State.reset.port = [] ∧ ({ State.reset with port := [[1, 4], [2]] } : State).port = [1, 4] :: [[2]] ∧
      decode [1, 4] = some .poll ∧ decode [0, 9] = none := by decide

theorem witness_DecodeEncodeAgree : (Instr.targets [1] 65535 [.bitfield 0 0 7 0 65535]).wf = true := by decide

end Sys2Proof.Tests
end

section
/-! PROOF. The family 10_state: what the selection word selects, what a buffer that is not ready has room for, one
inversion lemma for `exec`, and from them the invariant of the block and who writes `failed`, `warn`, the profile and
the trace. -/

namespace Sys2Proof.Machine

open Sys2Proof.Config (Profile FrameType Admitted withinCap)

/-! ## Selection (R101, R102, R121) -/

/-- Over all 128 selection words the table and the priority list agree. -/
theorem decodeSel_bits : ∀ f h r a m v k : Bool,
    decodeSel (BitVec.ofNat 7 (64 * bit f + 32 * bit h + 16 * bit r + 8 * bit a + 4 * bit m + 2 * bit v + bit k)) =
      some (if f then .halt
        else if r then (if !v then .reject else if k then .dispatch else .unknown)
        else if !a then .idle
        else if !h then (if !m then .discard else .sync)
        else .append) := by decide

theorem select_eq_selectByPriority (s : State) : s.select = s.selectByPriority := by
  simp only [State.select, State.selWord, decodeSel_bits, Option.getD_some, State.selectByPriority]

theorem select_eq_halt_of_failed {s : State} (h : s.failed = true) : s.select = .halt := by
  simp [select_eq_selectByPriority, State.selectByPriority, h]

/-- A state that selects REJECT is ready and not valid. -/
theorem select_eq_reject {s : State} (h : s.select = .reject) : s.ready = true ∧ s.valid = false := by
  rw [select_eq_selectByPriority, State.selectByPriority] at h
  grind

/-- A state that selects DISPATCH or UNKNOWN is valid. -/
theorem valid_of_select {s : State} (h : s.select = .dispatch ∨ s.select = .unknown) : s.valid = true := by
  rw [select_eq_selectByPriority, State.selectByPriority] at h
  grind

/-- A state that selects SYNC seeks, and a first header byte is at the head of the queue. -/
theorem select_eq_sync {s : State} (h : s.select = .sync) : s.hf = false ∧ s.headIsFirst = true := by
  rw [select_eq_selectByPriority, State.selectByPriority] at h
  grind

/-- A state that selects APPEND gathers and is not ready. -/
theorem select_eq_append {s : State} (h : s.select = .append) : s.hf = true ∧ s.ready = false := by
  rw [select_eq_selectByPriority, State.selectByPriority] at h
  grind

/-! ## The total length (R83, R163) -/

theorem total_eq_some {p : Profile} {l : List Byte} {n : Nat} :
    total p l = some n ↔ ∃ i t, ftype p l = some (i, t) ∧ totalOf t l = some n := by
  simp [total, Option.bind_eq_some_iff]

@[simp] theorem total_nil (p : Profile) : total p [] = none := rfl

/-- An admitted frame is no shorter than its header and length field (R10 items (d) and (e)). -/
theorem hdr_lfW_le_totalOf {t : FrameType} {l : List Byte} {n : Nat} (ok : t.lenModeOk = true)
    (h : totalOf t l = some n) : t.hdr.length + t.lfW ≤ n := by
  cases hm : t.lenMode with
  | fixed k =>
    simp only [FrameType.lenModeOk, hm] at ok
    simp only [totalOf, hm, Option.some.injEq] at h
    have hmin : t.minTotal ≤ k := of_decide_eq_true ok
    unfold FrameType.minTotal at hmin
    omega
  | field w e base =>
    simp only [FrameType.lenModeOk, hm, Bool.and_eq_true, decide_eq_true_eq] at ok
    simp only [totalOf, hm, Option.map_eq_some_iff] at h
    obtain ⟨v, _, rfl⟩ := h
    simp only [FrameType.lfW, hm]
    omega

/-- While the total is not known, the header and length field are not all there. -/
theorem length_lt_of_totalOf_eq_none {t : FrameType} {l : List Byte} (h : totalOf t l = none) :
    l.length < t.hdr.length + t.lfW := by
  cases hm : t.lenMode with
  | fixed k => simp [totalOf, hm] at h
  | field w e base =>
    by_contra hle
    simp only [FrameType.lfW, hm] at hle
    simp [totalOf, lengthField, hm, memRead_eq_some (Nat.le_of_not_lt hle)] at h

/-- A total once known stays as bytes are appended. -/
theorem totalOf_append {t : FrameType} {l : List Byte} {n : Nat} (r : List Byte) (h : totalOf t l = some n) :
    totalOf t (l ++ r) = some n := by
  cases hm : t.lenMode with
  | fixed k => simpa [totalOf, hm] using h
  | field w e base =>
    simp only [totalOf, lengthField, hm, Option.map_map, Option.map_eq_some_iff] at h ⊢
    obtain ⟨v, hv, hn⟩ := h
    exact ⟨v, memRead_append r hv, hn⟩

theorem withinCap_mono {cap : Option Nat} {m n : Nat} (h : withinCap cap n = true) (hmn : m ≤ n) :
    withinCap cap m = true := by
  cases cap with
  | none => rfl
  | some c => simp only [withinCap, decide_eq_true_eq] at h ⊢; omega

/-! ## Room and readiness (R166, R168) -/

/-- What holds of a buffer that may hold `m` bytes: they fit, and the frame it begins is not shorter. -/
def RoomFor (p : Profile) (l : List Byte) (m : Nat) : Prop :=
  withinCap p.bufCap m = true ∧ ∀ n, total p l = some n → m ≤ n

theorem RoomFor.of_le {p : Profile} {l : List Byte} {m k : Nat} (h : RoomFor p l m) (hk : k ≤ m) : RoomFor p l k :=
  ⟨withinCap_mono h.1 hk, fun n hn => hk.trans (h.2 n hn)⟩

/-- Every buffer with a type has room for the header and the length field of that type. -/
theorem roomFor_hdr_lfW (a : Admitted) {l : List Byte} {i : Nat} {t : FrameType} (h : ftype a.raw l = some (i, t)) :
    RoomFor a.raw l (t.hdr.length + t.lfW) := by
  refine ⟨Admitted.cap_ok a (ftype_mem h), fun n hn => ?_⟩
  obtain ⟨i', t', ht, hn⟩ := total_eq_some.mp hn
  rw [h] at ht
  cases ht
  obtain ⟨_, _, _, ok, _⟩ := FrameType.ok_bounds (Admitted.type_ok a (ftype_mem h))
  exact hdr_lfW_le_totalOf ok hn

/-- The header has a byte, so a buffer with a type has room for one (R10 item (a)). -/
theorem roomFor_one (a : Admitted) {l : List Byte} (h : (ftype a.raw l).isSome = true) : RoomFor a.raw l 1 := by
  obtain ⟨⟨i, t⟩, ht⟩ := Option.isSome_iff_exists.mp h
  have := (FrameType.ok_bounds (Admitted.type_ok a (ftype_mem ht))).1
  exact (roomFor_hdr_lfW a ht).of_le (by omega)

theorem ftype_append {p : Profile} {l : List Byte} {x : Nat × FrameType} (r : List Byte) (h : ftype p l = some x) :
    ftype p (l ++ r) = some x := by
  cases l with
  | nil => cases h
  | cons b l => exact h

/-- A ready buffer with a type has its total, and is oversize or complete; one that is not ready is neither. -/
theorem readyBuf_of_ftype {p : Profile} {l : List Byte} {i : Nat} {t : FrameType} (h : ftype p l = some (i, t)) :
    readyBuf p l = true ↔ ∃ n, totalOf t l = some n ∧ (withinCap p.bufCap n = false ∨ n ≤ l.length) := by
  obtain ⟨b, r, rfl, _⟩ := ftype_eq_some h
  cases hn : totalOf t (b :: r) <;> simp [readyBuf, isOversize, isComplete, total, h, hn]

/-- A buffer with a type that is not ready has room for one byte more (R168). -/
theorem roomFor_succ_of_not_ready (a : Admitted) {l : List Byte} (b : Byte) (ht : (ftype a.raw l).isSome = true)
    (h : readyBuf a.raw l = false) : RoomFor a.raw (l ++ [b]) (l.length + 1) := by
  obtain ⟨⟨i, t⟩, ht⟩ := Option.isSome_iff_exists.mp ht
  have ht' := ftype_append [b] ht
  cases hn : totalOf t l with
  | none =>
    have := length_lt_of_totalOf_eq_none hn
    exact (roomFor_hdr_lfW a ht').of_le (by omega)
  | some n =>
    have hnot : ¬ (withinCap a.raw.bufCap n = false ∨ n ≤ l.length) := fun hor => by
      rw [(readyBuf_of_ftype ht).mpr ⟨n, hn, hor⟩] at h
      cases h
    have htotal : total a.raw (l ++ [b]) = some n := total_eq_some.mpr ⟨i, t, ht', totalOf_append _ hn⟩
    have hroom : RoomFor a.raw (l ++ [b]) n := ⟨by simp_all, fun m hm => by simp_all⟩
    exact hroom.of_le (by omega)

/-! ## The validator (R190, R191, R211) -/

theorem ready_eq_true {s : State} : s.ready = true ↔ s.hf = true ∧ readyBuf s.prof s.buf = true := by
  simp [State.ready]

theorem valid_eq_true {s : State} : s.valid = true ↔ s.ready = true ∧ rejectCause s.prof s.buf = none := by
  simp [State.valid]

/-- A ready state that is not valid has a cause (R190). -/
theorem exists_rejectCause {s : State} (hr : s.ready = true) (hv : s.valid = false) :
    ∃ c, rejectCause s.prof s.buf = some c := by
  cases hc : rejectCause s.prof s.buf with
  | some c => exact ⟨c, rfl⟩
  | none => simp [valid_eq_true.mpr ⟨hr, hc⟩] at hv

/-- The front of a valid state: its frame is whole in the buffer (R165, R211). -/
theorem front_of_valid {s : State} (h : s.valid = true) :
    ∃ f, s.front = some f ∧ total s.prof s.buf = some f.total ∧ f.total ≤ s.len := by
  obtain ⟨hr, hc⟩ := valid_eq_true.mp h
  obtain ⟨_, hr⟩ := ready_eq_true.mp hr
  cases ht : ftype s.prof s.buf with
  | none => simp [rejectCause, ht] at hc
  | some x =>
    obtain ⟨i, t⟩ := x
    obtain ⟨n, hn, hor⟩ := (readyBuf_of_ftype ht).mp hr
    have hcap : withinCap s.prof.bufCap n = true := by
      cases hw : withinCap s.prof.bufCap n with
      | true => rfl
      | false => simp [rejectCause, ht, hn, hw] at hc
    exact ⟨frontOf i t s.buf n, by simp [State.front, ht, hn], total_eq_some.mpr ⟨i, t, ht, hn⟩,
      hor.resolve_left (by simp [hcap])⟩

/-! ## The invariant through the micro-operations -/

/-- The invariant speaks of the profile, the buffer, `hf` and the exchange only. -/
theorem Inv.of_same {s t : State} (h : Inv s) (hprofile : t.profile = s.profile) (hmem : t.mem = s.mem)
    (hhf : t.hf = s.hf) (hxchg : t.xchg = s.xchg) (hpending : t.pending = s.pending) : Inv t := by
  have hprof : t.prof = s.prof := congrArg Admitted.raw hprofile
  have hbuf : t.buf = s.buf := congrArg memoryBytes hmem
  have hlen : t.len = s.len := congrArg List.length hbuf
  constructor
  · rw [hmem]; exact h.canonical
  · rw [hhf, hlen]; exact h.flag
  · rw [hprof, hlen]; exact h.capacity
  · rw [hprof, hbuf, hlen]; exact h.typed
  · rw [hprof, hbuf, hlen]; exact h.exact
  · rw [hxchg, hpending]; exact h.exchange

/-- An empty buffer with `hf` clear and no exchange meets the invariant. -/
theorem Inv.of_empty {s : State} (hmem : s.mem = []) (hhf : s.hf = false) (hx : s.xchg = .idle ∧ s.pending = none) :
    Inv s := by
  have hbuf : s.buf = [] := congrArg memoryBytes hmem
  have hlen : s.len = 0 := congrArg List.length hbuf
  constructor
  · rw [hmem]; rfl
  · simp [hhf, hlen]
  · rw [hlen]; cases s.prof.bufCap <;> simp [withinCap]
  · simp [hlen]
  · simp [hlen]
  · exact hx

/-- A state that has gathered `l`, which has a type and room for its bytes, meets the invariant. -/
theorem Inv.of_gathered {s : State} {l : List Byte} (hmem : s.mem = memoryOf l) (hhf : s.hf = true)
    (htype : (ftype s.prof l).isSome = true) (hroom : RoomFor s.prof l l.length)
    (hx : s.xchg = .idle ∧ s.pending = none) : Inv s := by
  have hbuf : s.buf = l := (congrArg memoryBytes hmem).trans (memoryBytes_memoryOf l)
  have hlen : s.len = l.length := congrArg List.length hbuf
  have hpos : 0 < l.length := by
    cases l with
    | nil => cases htype
    | cons b r => exact Nat.succ_pos _
  constructor
  · rw [hmem]; exact memoryWf_memoryOf l
  · simp [hhf, hlen, hpos]
  · rw [hlen]; exact hroom.1
  · rw [hbuf]; exact fun _ => htype
  · rw [hbuf, hlen]; exact hroom.2
  · exact hx

theorem Inv.arrive {s : State} (h : Inv s) : Inv s.arrive := by
  rcases s.arrive_cases with ⟨_, e⟩ | ⟨l, r, _, e⟩ <;> rw [e]
  · exact h
  · exact h.of_same rfl rfl rfl rfl rfl

/-- SYNC on a first header byte: the buffer was empty and now holds that byte (R144). -/
theorem Inv.sync {s t : State} (h : Inv s) (hsel : s.select = .sync) {b : Byte} {r : List Byte} (hq : s.q = b :: r)
    (e : t = { s with q := r, hf := true, mem := memoryOf (s.buf ++ [b]) }) : Inv t := by
  obtain ⟨hhf, hfirst⟩ := select_eq_sync hsel
  have hbuf : s.buf = [] := by
    have : ¬ 0 < s.len := fun hl => by simp [h.flag.mpr hl] at hhf
    exact List.length_eq_zero_iff.mp (Nat.eq_zero_of_not_pos this)
  have htype : (ftype s.prof [b]).isSome = true := by
    rw [ftype_isSome_cons]
    simpa [State.headIsFirst, State.peek, hq] using hfirst
  rw [hbuf] at e
  subst e
  exact Inv.of_gathered rfl rfl htype (roomFor_one s.profile htype) h.exchange

/-- APPEND to a buffer that is not ready (R146, R168). -/
theorem Inv.append {s t : State} (h : Inv s) (hsel : s.select = .append) {b : Byte} {r : List Byte}
    (e : t = { s with q := r, hf := true, mem := memoryOf (s.buf ++ [b]) }) : Inv t := by
  obtain ⟨hhf, hready⟩ := select_eq_append hsel
  have htype := h.typed (h.flag.mp hhf)
  have hbuf : readyBuf s.prof s.buf = false := by simpa [State.ready, hhf] using hready
  have htype' : (ftype s.prof (s.buf ++ [b])).isSome = true := by
    obtain ⟨x, hx⟩ := Option.isSome_iff_exists.mp htype
    rw [ftype_append [b] hx]
    rfl
  have hroom : RoomFor s.prof (s.buf ++ [b]) (s.buf ++ [b]).length := by
    rw [List.length_append]
    exact roomFor_succ_of_not_ready s.profile b htype hbuf
  subst e
  exact Inv.of_gathered rfl rfl htype' hroom h.exchange

/-- The erase takes the one frame there is: after it nothing is buffered (R131, R222). -/
theorem Inv.consumed {s t : State} (h : Inv s) (hv : s.valid = true) {f : Front} (hf : s.front = some f)
    (hmem : t.mem = memoryOf (s.buf.drop f.total)) (hhf : t.hf = decide (f.total < s.len))
    (hxchg : t.xchg = s.xchg) (hpending : t.pending = s.pending) : Inv t := by
  obtain ⟨f', hf', htotal, _⟩ := front_of_valid hv
  obtain rfl : f = f' := Option.some.inj (hf.symm.trans hf')
  have hle : s.len ≤ f.total := h.exact _ htotal
  refine Inv.of_empty ?_ ?_ ?_
  · rw [hmem, List.drop_of_length_le hle]; rfl
  · simpa [hhf] using hle
  · rw [hxchg, hpending]; exact h.exchange

/-- The selected micro-operation keeps the invariant. -/
theorem Inv.perform {s : State} (h : Inv s) : Inv (perform s.select s) := by
  rcases perform_cases s.select s with e | ⟨b, r, _, _, e⟩ | ⟨b, r, hq, hsel, e⟩ | ⟨c, _, _, e⟩ | ⟨f, hf, hsel, e⟩ |
    ⟨f, hf, hsel, e⟩
  · rwa [e]
  · rw [e]; exact h.of_same rfl rfl rfl rfl rfl
  · rcases hsel with hsel | hsel
    · exact h.sync hsel hq e
    · exact h.append hsel e
  · rw [e]; exact Inv.of_empty rfl rfl h.exchange
  · rw [e]; exact h.consumed (valid_of_select (.inl hsel)) hf rfl rfl rfl rfl
  · rw [e]; exact h.consumed (valid_of_select (.inr hsel)) hf rfl rfl rfl rfl

theorem Inv.microStep {s : State} (h : Inv s) : Inv (microStep s).2 := h.arrive.perform

theorem Inv.doPoll {s : State} (h : Inv s) : Inv (doPoll s) :=
  pollLoop_induction (fun _ ht => Inv.microStep ht) _ s h

/-! ## The trace and `warn` through the micro-operations -/

theorem perform_trace_prefix (op : MicroOp) (s : State) : s.trace <+: (perform op s).trace := by
  rcases perform_cases op s with e | ⟨b, r, _, _, e⟩ | ⟨b, r, _, _, e⟩ | ⟨c, _, _, e⟩ | ⟨f, _, _, e⟩ | ⟨f, _, _, e⟩ <;>
    rw [e]
  · exact List.prefix_append _ _
  · exact List.prefix_append _ _
  · exact List.prefix_append _ _

theorem arrive_trace (s : State) : s.arrive.trace = s.trace := by
  rcases s.arrive_cases with ⟨_, e⟩ | ⟨l, r, _, e⟩ <;> rw [e]

theorem arrive_failed (s : State) : s.arrive.failed = s.failed := by
  rcases s.arrive_cases with ⟨_, e⟩ | ⟨l, r, _, e⟩ <;> rw [e]

theorem doPoll_trace_prefix (s : State) : s.trace <+: (doPoll s).trace := by
  refine pollLoop_induction (P := fun t => s.trace <+: t.trace) (fun t ht => ?_) _ s List.prefix_rfl
  refine ht.trans ?_
  rw [← arrive_trace t]
  exact perform_trace_prefix _ _

theorem doPoll_sameRest (s : State) : SameRest s (doPoll s) := pollLoop_sameRest _ s

/-- The micro-operations other than REJECT, DISPATCH and UNKNOWN leave `warn` as it is. -/
theorem perform_warn {op : MicroOp} (s : State) (hr : op ≠ .reject) (hd : op ≠ .dispatch) (hu : op ≠ .unknown) :
    (perform op s).warn = s.warn := by
  rcases perform_cases op s with e | ⟨b, r, _, _, e⟩ | ⟨b, r, _, _, e⟩ | ⟨c, _, h, _⟩ | ⟨f, _, h, _⟩ | ⟨f, _, h, _⟩
  · rw [e]
  · rw [e]
  · rw [e]
  · exact absurd h hr
  · exact absurd h hd
  · exact absurd h hu

/-- REJECT where it is selected sets `warn` (R196). -/
theorem perform_reject_warn {s : State} (h : s.select = .reject) : (perform .reject s).warn = true := by
  obtain ⟨hr, hv⟩ := select_eq_reject h
  obtain ⟨c, hc⟩ := exists_rejectCause hr hv
  simp [perform, doReject, hc]

/-- DISPATCH where it is selected clears `warn` (R220). -/
theorem perform_dispatch_warn {s : State} (h : s.select = .dispatch) : (perform .dispatch s).warn = false := by
  obtain ⟨f, hf, _⟩ := front_of_valid (valid_of_select (.inl h))
  simp [perform, doDispatch, hf, consume_eq]

/-- UNKNOWN where it is selected clears `warn` (R221). -/
theorem perform_unknown_warn {s : State} (h : s.select = .unknown) : (perform .unknown s).warn = false := by
  obtain ⟨f, hf, _⟩ := front_of_valid (valid_of_select (.inr h))
  simp [perform, doUnknown, hf, consume_eq]

/-! ## POLL while `failed` is set (R127) -/

theorem microStep_of_failed {s : State} (h : s.failed = true) : microStep s = (.halt, s.arrive) := by
  have : s.arrive.select = .halt := select_eq_halt_of_failed ((arrive_failed s).trans h)
  simp [microStep, this, perform, doHalt]

theorem pollFuel_pos (s : State) : 0 < s.pollFuel := by
  unfold State.pollFuel
  split
  · exact Nat.succ_pos _
  · rename_i n hn
    exact Nat.pos_of_ne_zero fun h0 => Admitted.budget_ne_zero s.profile (h0 ▸ hn)

theorem doPoll_of_failed {s : State} (h : s.failed = true) : doPoll s = s.arrive := by
  obtain ⟨n, hn⟩ := Nat.exists_eq_succ_of_ne_zero (pollFuel_pos s).ne'
  rw [doPoll, hn, pollLoop_succ, microStep_of_failed h]
  rfl

/-! ## What an operation can do -/

/-- `t` is `s` but for the queue, the bytes written out, events added to the trace, and the value shown. -/
structure LeavesParser (s t : State) : Prop where
  profile : t.profile = s.profile
  mem : t.mem = s.mem
  hf : t.hf = s.hf
  warn : t.warn = s.warn
  failed : t.failed = s.failed
  xchg : t.xchg = s.xchg
  pending : t.pending = s.pending
  port : t.port = s.port
  future : t.future = s.future
  trace : s.trace <+: t.trace

/-- `t` is `s` after a whole exchange: the parser's buffer and `hf`, the profile, `failed` and the port are as
before, and no exchange is in progress (R280, R282). -/
structure Exchanged (s t : State) : Prop where
  profile : t.profile = s.profile
  mem : t.mem = s.mem
  hf : t.hf = s.hf
  failed : t.failed = s.failed
  xchg : t.xchg = .idle
  pending : t.pending = none
  port : t.port = s.port
  trace : s.trace <+: t.trace

theorem LeavesParser.refl (s : State) : LeavesParser s s :=
  ⟨rfl, rfl, rfl, rfl, rfl, rfl, rfl, rfl, rfl, List.prefix_rfl⟩

theorem LeavesParser.showInt (s : State) (v : Option Int) : LeavesParser s (s.showInt v) :=
  ⟨rfl, rfl, rfl, rfl, rfl, rfl, rfl, rfl, rfl, List.prefix_rfl⟩

theorem LeavesParser.showByte (s : State) (v : Option Byte) : LeavesParser s (s.showByte v) :=
  ⟨rfl, rfl, rfl, rfl, rfl, rfl, rfl, rfl, rfl, List.prefix_rfl⟩

theorem LeavesParser.showBytes (s : State) (l : List Byte) : LeavesParser s (s.showBytes l) :=
  ⟨rfl, rfl, rfl, rfl, rfl, rfl, rfl, rfl, rfl, List.prefix_rfl⟩

theorem LeavesParser.produce (s : State) (l : List Byte) : LeavesParser s (s.produce l) :=
  ⟨rfl, rfl, rfl, rfl, rfl, rfl, rfl, rfl, rfl, List.prefix_rfl⟩

theorem LeavesParser.emitAll (s : State) (es : List Event) : LeavesParser s (s.emitAll es) :=
  ⟨rfl, rfl, rfl, rfl, rfl, rfl, rfl, rfl, rfl, List.prefix_append _ _⟩

theorem LeavesParser.transmit (s : State) (f : List Byte) : LeavesParser s (s.txWrite f).txFlush :=
  ⟨rfl, rfl, rfl, rfl, rfl, rfl, rfl, rfl, rfl, (List.prefix_append _ _).trans (List.prefix_append _ _)⟩

/-- A time-out and a decoded reply alike end the exchange and touch nothing of the parser. -/
theorem exchanged_doXchg (c : Option Nat) (p f : List Byte) (s : State) : Exchanged s (doXchg c p f s) := by
  have htx := LeavesParser.transmit (s.beginExchange c p) f
  unfold doXchg
  generalize ((s.beginExchange c p).txWrite f).txFlush = u at htx
  obtain ⟨hprofile, hmem, hhf, _, hfailed, _, _, hport, _, htrace⟩ := htx
  simp only [State.beginExchange_profile, State.beginExchange_mem, State.beginExchange_hf,
    State.beginExchange_failed, State.beginExchange_port, State.beginExchange_trace]
    at hprofile hmem hhf hfailed hport htrace
  cases hw : xchgWait u.waitFuel 0 [] u with
  | mk v o =>
    obtain ⟨⟨q, fu, rfl⟩, _, _⟩ := xchgWait_cases _ _ _ _ _ _ hw
    cases o with
    | none =>
      simp only [hw, raise_exchangeTimeout]
      exact ⟨hprofile, hmem, hhf, hfailed, rfl, rfl, hport, htrace.trans (List.prefix_append _ _)⟩
    | some r =>
      simp only [hw]
      rcases decodeReply_cases r { u with q := q, future := fu } with ⟨c, e⟩ | ⟨i, t, _, _, e⟩ <;> rw [e] <;>
        exact ⟨hprofile, hmem, hhf, hfailed, rfl, rfl, hport, htrace.trans (List.prefix_append _ _)⟩

/-- What an operation that answers a next state has done: a selected micro-operation, one of the host's operations on
the whole state, an exchange, or something that leaves the parser alone. -/
inductive Executed (i : Instr) (s t : State) : Prop where
  | micro (op : MicroOp) (instr : i = op.toInstr) (selected : s.select = op) (result : t = perform op s)
  | poll (instr : i = .poll) (result : t = doPoll s)
  | reset (instr : i = .reset) (result : t =
      { s with mem := [], hf := false, warn := false, failed := false, xchg := .idle, pending := none })
  | markFailed (instr : i = .markFailed) (result : t = { s with failed := true })
  | xchg (n : Nat) (c : Option Nat) (p : List Byte) (instr : i = .xchg n c p) (result : Exchanged s t)
  | other (result : LeavesParser s t)

theorem Executed.of_whenSelected {op : MicroOp} {s t : State} (h : whenSelected op s (perform op s) = .next t) :
    Executed op.toInstr s t := by
  obtain ⟨hsel, ht⟩ := whenSelected_eq_next.mp h
  exact .micro op rfl hsel ht.symm

theorem Executed.of_leavesParser {i : Instr} {s t u : State} (hu : LeavesParser s u)
    (h : Host.Outcome.next (φ := Fault) (ρ := Refusal) u = .next t) : Executed i s t := by
  cases h
  exact .other hu

/-- Everything an operation that answers a next state can have done. -/
theorem executed_of_exec {i : Instr} {s t : State} (h : exec i s = .next t) : Executed i s t := by
  cases i with
  | halt => exact .of_whenSelected (op := .halt) h
  | reject => exact .of_whenSelected (op := .reject) h
  | dispatch => exact .of_whenSelected (op := .dispatch) h
  | unknown => exact .of_whenSelected (op := .unknown) h
  | idle => exact .of_whenSelected (op := .idle) h
  | discard => exact .of_whenSelected (op := .discard) h
  | sync => exact .of_whenSelected (op := .sync) h
  | append => exact .of_whenSelected (op := .append) h
  | poll => exact .poll rfl (Host.Outcome.next.inj h).symm
  | reset => exact .reset rfl (Host.Outcome.next.inj h).symm
  | markFailed => exact .markFailed rfl (Host.Outcome.next.inj h).symm
  | xchg n c p =>
    simp only [exec, execXchg] at h
    split at h
    · split at h
      · cases h
      · cases h
        exact .xchg n c p rfl (exchanged_doXchg ..)
    · cases h
  | nop => exact .of_leavesParser (.refl s) h
  | rdU8 p off | rdI8 p off | rdU16le p off | rdU16be p off | rdI16le p off | rdI16be p off | rdU32le p off
  | rdU32be p off | rdI32le p off | rdI32be p off => exact .of_leavesParser (.showInt s _) h
  | ckNone span | ckSum8 span | ckNeg8 span | ckCustom fn span => exact .of_leavesParser (.showByte s _) h
  | reservedKind0001 | reservedKind1001 | reservedKind0110 | reservedKind0111 | reservedKind1110 | reservedKind1111
  | reservedHost110 | reservedHost111 => cases h
  | frameGeneral f | frameP1 cmd payload | frameP2 hdr cmd payload tail | frameP3 b0 body
  | layoutP4 count flags records => exact .of_leavesParser (.produce s _) h
  | field p sink off kind scale | log tag | cmdP1FactoryReset => exact .of_leavesParser (.emitAll s _) h
  | bitfield p sink off hi lo map =>
    simp only [exec, execBitfield] at h
    split at h
    · exact .of_leavesParser (.emitAll s _) h
    · cases h
  | targets p off items =>
    simp only [exec, execTargets] at h
    split at h
    · exact .of_leavesParser (.emitAll s _) h
    · cases h
  | xmit n c p =>
    simp only [exec, execXmit] at h
    split at h
    · cases h
    · exact .of_leavesParser (.transmit s _) h
  | encodeFrame n c p =>
    simp only [exec, execEncodeFrame] at h
    split at h
    · cases h
    · exact .of_leavesParser (.showBytes s _) h

/-- A step does nothing, or runs an operation with its word taken from the port. -/
theorem step_cases {s t : State} (h : step s = .next t) :
    t = s ∨ ∃ i r, exec i { s with port := r } = .next t := by
  unfold step at h
  cases hp : s.port with
  | nil =>
    simp only [State.nextWord, hp] at h
    exact .inl (Host.Outcome.next.inj h).symm
  | cons w r =>
    simp only [State.nextWord, hp] at h
    split at h
    · cases h
    · exact .inr ⟨_, r, h⟩

/-! ## What every operation keeps -/

/-- Every operation keeps the invariant. -/
theorem Inv.exec {i : Instr} {s t : State} (hs : Inv s) (h : exec i s = .next t) : Inv t := by
  cases executed_of_exec h with
  | micro op _ hsel ht =>
    subst hsel ht
    exact hs.perform
  | poll _ ht => exact ht ▸ hs.doPoll
  | reset _ ht =>
    subst ht
    exact Inv.of_empty rfl rfl ⟨rfl, rfl⟩
  | markFailed _ ht =>
    subst ht
    exact hs.of_same rfl rfl rfl rfl rfl
  | xchg _ _ _ _ hx =>
    obtain ⟨hxchg, hpending⟩ := hs.exchange
    exact hs.of_same hx.profile hx.mem hx.hf (hx.xchg.trans hxchg.symm) (hx.pending.trans hpending.symm)
  | other hq => exact hs.of_same hq.profile hq.mem hq.hf hq.xchg hq.pending

/-- No operation writes the profile or takes an event back. -/
theorem exec_profile_trace {i : Instr} {s t : State} (h : exec i s = .next t) :
    t.profile = s.profile ∧ s.trace <+: t.trace := by
  cases executed_of_exec h with
  | micro op _ _ ht =>
    obtain ⟨⟨hprofile, _⟩, _⟩ := perform_sameRest op s
    exact ht ▸ ⟨hprofile, perform_trace_prefix op s⟩
  | poll _ ht =>
    obtain ⟨hprofile, _⟩ := doPoll_sameRest s
    exact ht ▸ ⟨hprofile, doPoll_trace_prefix s⟩
  | reset _ ht => exact ht ▸ ⟨rfl, List.prefix_rfl⟩
  | markFailed _ ht => exact ht ▸ ⟨rfl, List.prefix_rfl⟩
  | xchg _ _ _ _ hx => exact ⟨hx.profile, hx.trace⟩
  | other hq => exact ⟨hq.profile, hq.trace⟩

/-- Only RESET and MARK_FAILED write `failed` (R30). -/
theorem exec_failed {i : Instr} {s t : State} (h : exec i s = .next t) :
    (i = .reset ∧ t.failed = false) ∨ (i = .markFailed ∧ t.failed = true) ∨ t.failed = s.failed := by
  cases executed_of_exec h with
  | micro op _ _ ht =>
    obtain ⟨⟨_, hfailed, _⟩, _⟩ := perform_sameRest op s
    exact .inr (.inr (ht ▸ hfailed))
  | poll _ ht =>
    obtain ⟨_, hfailed, _⟩ := doPoll_sameRest s
    exact .inr (.inr (ht ▸ hfailed))
  | reset hi ht => exact .inl ⟨hi, ht ▸ rfl⟩
  | markFailed hi ht => exact .inr (.inl ⟨hi, ht ▸ rfl⟩)
  | xchg _ _ _ _ hx => exact .inr (.inr hx.failed)
  | other hq => exact .inr (.inr hq.failed)

/-- A micro-operation that changes `warn` is REJECT, DISPATCH or UNKNOWN. -/
theorem perform_warn_writer {op : MicroOp} {s : State} (h : (perform op s).warn ≠ s.warn) :
    op = .reject ∨ op = .dispatch ∨ op = .unknown := by
  by_contra hop
  simp only [not_or] at hop
  obtain ⟨hr, hd, hu⟩ := hop
  exact h (perform_warn s hr hd hu)

/-- An operation that changes `warn` is one of those R29 names. -/
theorem exec_warn_writer {i : Instr} {s t : State} (h : exec i s = .next t) (hw : t.warn ≠ s.warn) :
    i = .reject ∨ i = .dispatch ∨ i = .unknown ∨ i = .reset ∨ i = .poll ∨ ∃ n c p, i = .xchg n c p := by
  cases executed_of_exec h with
  | micro op hi _ ht =>
    subst hi ht
    rcases perform_warn_writer hw with rfl | rfl | rfl <;> simp [MicroOp.toInstr]
  | poll hi _ => simp [hi]
  | reset hi _ => simp [hi]
  | markFailed _ ht => exact absurd (ht ▸ rfl) hw
  | xchg n c p hi _ => simp [hi]
  | other hq => exact absurd hq.warn hw

/-- A micro-operation run by itself answers what performing it gives, and only where it is selected. -/
theorem exec_toInstr {op : MicroOp} {s t : State} (h : exec op.toInstr s = .next t) :
    s.select = op ∧ t = perform op s := by
  have h' : whenSelected op s (perform op s) = .next t := by cases op <;> exact h
  obtain ⟨hsel, ht⟩ := whenSelected_eq_next.mp h'
  exact ⟨hsel, ht.symm⟩

/-! ## STATUS (R32) -/

/-- The four flags read back from the word they are packed in, whatever they are. -/
theorem status_low_bits : ∀ h w f x : Bool,
    let v := BitVec.ofNat 8 (bit h + 2 * bit w + 4 * bit f + 8 * bit x)
    v.getLsbD 0 = h ∧ v.getLsbD 1 = w ∧ v.getLsbD 2 = f ∧ v.getLsbD 3 = x ∧ v.toNat < 16 := by decide

/-! ## The obligations -/

/-- Settles O55: a step is nothing or one operation, and every operation keeps the invariant. -/
theorem invariantKeptByEveryStep : Obligations.InvariantKeptByEveryStep := by
  intro s t hs h
  rcases step_cases h with rfl | ⟨i, r, h⟩
  · exact hs
  · have hs' : Inv { s with port := r } := hs.of_same rfl rfl rfl rfl rfl
    exact hs'.exec h

/-- Settles O47, from who writes `failed` and what a POLL does while it is set. -/
theorem failedSetAndClearedOnlyByHost : Obligations.FailedSetAndClearedOnlyByHost := by
  intro i s t h
  refine ⟨fun hs ht => ?_, fun hs ht => ?_, fun hs => ⟨?_, ?_⟩⟩
  · rcases exec_failed h with ⟨_, hf⟩ | ⟨hi, _⟩ | hf
    · simp [hf] at ht
    · exact hi
    · simp [hf, hs] at ht
  · rcases exec_failed h with ⟨hi, _⟩ | ⟨_, hf⟩ | hf
    · exact hi
    · simp [hf] at ht
    · simp [hf, hs] at ht
  · rw [microStep_of_failed hs]
  · exact congrArg Host.Outcome.next (doPoll_of_failed hs)

/-- Settles O51. -/
theorem profileConstantAndTraceGrows : Obligations.ProfileConstantAndTraceGrows := by
  intro s t h
  rcases step_cases h with rfl | ⟨i, r, h⟩
  · exact ⟨rfl, List.prefix_rfl⟩
  · exact exec_profile_trace (s := { s with port := r }) h

/-- Settles O53: REJECT has a cause where it is selected, DISPATCH and UNKNOWN a whole frame. -/
theorem warnWrittenOnlyWhereTheSpecSays : Obligations.WarnWrittenOnlyWhereTheSpecSays := by
  intro i s t h
  refine ⟨?_, ?_, exec_warn_writer h⟩
  · rintro rfl
    obtain ⟨hsel, rfl⟩ := exec_toInstr (op := .reject) h
    exact perform_reject_warn hsel
  · rintro (rfl | rfl | rfl)
    · obtain ⟨hsel, rfl⟩ := exec_toInstr (op := .dispatch) h
      exact perform_dispatch_warn hsel
    · obtain ⟨hsel, rfl⟩ := exec_toInstr (op := .unknown) h
      exact perform_unknown_warn hsel
    · cases h
      rfl

/-- Settles O48. -/
theorem resetStateHasTheSpecValues : Obligations.ResetStateHasTheSpecValues :=
  ⟨rfl, rfl, rfl, rfl, rfl, rfl, rfl, rfl, rfl, fun _ => rfl⟩

/-- Settles O49: the four flags sit in the low bits, and the word is below 16. -/
theorem statusBits : Obligations.StatusBits := by
  intro s
  obtain ⟨h0, h1, h2, h3, hlt⟩ := status_low_bits s.hf s.warn s.failed (s.xchg == .sent)
  refine ⟨h0, h1, h2, h3, fun j hj => ?_⟩
  have : s.status.toNat < 2 ^ j := lt_of_lt_of_le hlt (Nat.pow_le_pow_right two_pos hj : 2 ^ 4 ≤ 2 ^ j)
  exact Nat.testBit_lt_two_pow this

/-- Settles O54. -/
theorem invariantAtReset : Obligations.InvariantAtReset := Inv.of_empty rfl rfl ⟨rfl, rfl⟩

end Sys2Proof.Machine
end

section
/-! PROOF. The family 20_memory: which buffer operation each instruction amounts to (R57, R58, R59), and that bytes are
taken from the head of what is still to come only (R51, R54). -/

namespace Sys2Proof.Machine

/-! ## What is read of the buffer depends on `mem` alone -/

theorem State.len_congr {s t : State} (h : t.mem = s.mem) : t.len = s.len :=
  congrArg (fun m => (memoryBytes m).length) h

theorem State.readByte_congr {s t : State} (h : t.mem = s.mem) (a : Nat) : t.readByte a = s.readByte a :=
  congrArg (fun m => (memoryBytes m)[a]?) h

@[simp] theorem State.memAppend_len (s : State) (b : Byte) : (s.memAppend b).len = s.len + 1 := by
  simp [State.len]

@[simp] theorem State.eraseFront_len (s : State) (k : Nat) : (s.eraseFront k).len = s.len - k := by
  simp [State.len]

/-! ## The buffer operation of each micro-operation -/

/-- SYNC and APPEND are selected only where a byte is available (R101, R121). -/
theorem queue_of_select {s : State} (h : s.select = .sync ∨ s.select = .append) : ∃ b r, s.q = b :: r := by
  have havail : s.avail = true := by
    rw [select_eq_selectByPriority, State.selectByPriority] at h
    grind
  exact List.exists_cons_of_ne_nil (by simpa [State.avail] using havail)

/-- SYNC and APPEND where they are selected append the head byte (R144, R146). -/
theorem perform_mem_of_gathers {op : MicroOp} {s : State} (hop : op = .sync ∨ op = .append) (hsel : s.select = op) :
    ∃ b, s.peek = some b ∧ (perform op s).mem = (s.memAppend b).mem := by
  obtain ⟨b, r, hq⟩ := queue_of_select (hsel ▸ hop)
  refine ⟨b, by simp [State.peek, hq], ?_⟩
  rcases hop with rfl | rfl
  · simp [perform, doSync_cons hq]
  · simp [perform, doAppend_eq_doSync, doSync_cons hq]

/-- DISPATCH and UNKNOWN where they are selected erase the whole frame at the front (R222). -/
theorem perform_mem_of_consumes {op : MicroOp} {s : State} (hop : op = .dispatch ∨ op = .unknown)
    (hsel : s.select = op) :
    ∃ n, total s.prof s.buf = some n ∧ n ≤ s.len ∧ (perform op s).mem = (s.eraseFront n).mem := by
  obtain ⟨f, hf, htotal, hle⟩ := front_of_valid (valid_of_select (hsel ▸ hop))
  refine ⟨f.total, htotal, hle, ?_⟩
  rcases hop with rfl | rfl
  · simp [perform, doDispatch, hf, consume_eq, State.buf]
  · simp [perform, doUnknown, hf, consume_eq, State.buf]

/-- REJECT where it is selected clears the buffer (R196). -/
theorem perform_reject_mem {s : State} (h : s.select = .reject) : (perform .reject s).mem = s.clear.mem := by
  obtain ⟨hr, hv⟩ := select_eq_reject h
  obtain ⟨c, hc⟩ := exists_rejectCause hr hv
  simp [perform, doReject, hc]

/-- A micro-operation that writes the buffer is one of the five that R57, R58 and R59 name. -/
theorem perform_mem_writer {op : MicroOp} {s : State} (h : (perform op s).mem ≠ s.mem) :
    op = .sync ∨ op = .append ∨ op = .dispatch ∨ op = .unknown ∨ op = .reject := by
  rcases perform_cases op s with e | ⟨_, _, _, _, e⟩ | ⟨_, _, _, hop, _⟩ | ⟨_, _, hop, _⟩ | ⟨_, _, hop, _⟩ |
    ⟨_, _, hop, _⟩
  · exact absurd (congrArg State.mem e) h
  · exact absurd (congrArg State.mem e) h
  · rcases hop with hop | hop <;> simp [hop]
  · simp [hop]
  · simp [hop]
  · simp [hop]

/-- An operation that writes the buffer is one of those five, RESET or POLL. -/
theorem exec_mem_writer {i : Instr} {s t : State} (h : exec i s = .next t) (hm : t.mem ≠ s.mem) :
    i = .sync ∨ i = .append ∨ i = .dispatch ∨ i = .unknown ∨ i = .reject ∨ i = .reset ∨ i = .poll := by
  cases executed_of_exec h with
  | micro op hi _ ht =>
    subst hi ht
    rcases perform_mem_writer hm with rfl | rfl | rfl | rfl | rfl <;> simp [MicroOp.toInstr]
  | poll hi _ => simp [hi]
  | reset hi _ => simp [hi]
  | markFailed _ ht => exact absurd (ht ▸ rfl) hm
  | xchg _ _ _ _ hx => exact absurd hx.mem hm
  | other hq => exact absurd hq.mem hm

/-! ## What is still to be taken in -/

/-- A micro-operation takes bytes from the head of the queue only (R54). -/
theorem perform_stream (op : MicroOp) (s : State) : (perform op s).stream <:+ s.stream := by
  have taken {b : Byte} {r : List Byte} (hq : s.q = b :: r) : r ++ s.future.flatten <:+ s.stream :=
    ⟨[b], by simp [State.stream, hq]⟩
  rcases perform_cases op s with e | ⟨b, r, hq, _, e⟩ | ⟨b, r, hq, _, e⟩ | ⟨c, _, _, e⟩ | ⟨f, _, _, e⟩ | ⟨f, _, _, e⟩ <;>
    rw [e]
  · exact taken hq
  · exact taken hq
  · exact List.suffix_rfl
  · exact List.suffix_rfl
  · exact List.suffix_rfl

theorem microStep_stream (s : State) : (microStep s).2.stream <:+ s.stream := by
  simpa [microStep] using perform_stream s.arrive.select s.arrive

theorem doPoll_stream (s : State) : (doPoll s).stream <:+ s.stream :=
  pollLoop_induction (P := fun t => t.stream <:+ s.stream) (fun t ht => (microStep_stream t).trans ht) _ s
    List.suffix_rfl

/-- An exchange takes its reply from the head of the queue; its end takes nothing (R280, R282). -/
theorem doXchg_stream (c : Option Nat) (p f : List Byte) (s : State) : (doXchg c p f s).stream <:+ s.stream := by
  have hsent : (((s.beginExchange c p).txWrite f).txFlush).stream = s.stream := rfl
  unfold doXchg
  generalize ((s.beginExchange c p).txWrite f).txFlush = u at hsent
  cases hw : xchgWait u.waitFuel 0 [] u with
  | mk v o =>
    obtain ⟨_, hwait, _⟩ := xchgWait_cases _ _ _ _ _ _ hw
    rw [hsent] at hwait
    cases o with
    | none =>
      simp only [hw, raise_exchangeTimeout]
      exact hwait
    | some r =>
      simp only [hw]
      rcases decodeReply_cases r v with ⟨c, e⟩ | ⟨i, t, _, _, e⟩ <;> rw [e] <;> exact hwait

theorem exec_toInstr_stream {op : MicroOp} {s t : State} (h : exec op.toInstr s = .next t) : t.stream <:+ s.stream := by
  obtain ⟨_, rfl⟩ := exec_toInstr h
  exact perform_stream op s

/-! ## The obligations -/

/-- Settles O50: the operations that write the buffer are one append, one erase or one clear each, and a read after
each of these is known. -/
theorem bufferBytesFrame : Obligations.BufferBytesFrame := by
  intro i s t h
  refine ⟨fun hi => ?gathers, fun hi => ?consumes, fun hi => ?clears, ?others⟩
  case gathers =>
    have hmem : ∃ b, s.peek = some b ∧ t.mem = (s.memAppend b).mem := by
      rcases hi with rfl | rfl
      · obtain ⟨hsel, rfl⟩ := exec_toInstr (op := .sync) h
        exact perform_mem_of_gathers (.inl rfl) hsel
      · obtain ⟨hsel, rfl⟩ := exec_toInstr (op := .append) h
        exact perform_mem_of_gathers (.inr rfl) hsel
    obtain ⟨b, hb, hm⟩ := hmem
    have hread (a : Nat) := (State.readByte_congr hm a).trans (s.readByte_memAppend b a)
    exact ⟨(State.len_congr hm).trans (s.memAppend_len b), by rw [hread, if_pos rfl, hb],
      fun a ha => by rw [hread, if_neg ha]⟩
  case consumes =>
    have hmem : ∃ n, total s.prof s.buf = some n ∧ n ≤ s.len ∧ t.mem = (s.eraseFront n).mem := by
      rcases hi with rfl | rfl
      · obtain ⟨hsel, rfl⟩ := exec_toInstr (op := .dispatch) h
        exact perform_mem_of_consumes (.inl rfl) hsel
      · obtain ⟨hsel, rfl⟩ := exec_toInstr (op := .unknown) h
        exact perform_mem_of_consumes (.inr rfl) hsel
    obtain ⟨n, htotal, hle, hm⟩ := hmem
    exact ⟨n, htotal, hle, (State.len_congr hm).trans (s.eraseFront_len n),
      fun a => (State.readByte_congr hm a).trans (s.readByte_eraseFront n a)⟩
  case clears =>
    have hm : t.mem = s.clear.mem := by
      rcases hi with rfl | rfl
      · obtain ⟨hsel, rfl⟩ := exec_toInstr (op := .reject) h
        exact perform_reject_mem hsel
      · cases h
        rfl
    exact ⟨State.len_congr hm, fun a => (State.readByte_congr hm a).trans (s.readByte_clear a)⟩
  case others =>
    intro hsync happend hdispatch hunknown hreject hreset hpoll
    have hm : t.mem = s.mem := by
      by_contra hm
      have := exec_mem_writer h hm
      simp_all
    exact ⟨hm, State.readByte_congr hm⟩

/-- Settles O52: a micro-operation, a POLL and an exchange take bytes from the head, a FRAME row adds at the tail, and
no other operation writes the queue or the arrivals to come. -/
theorem inputIsTakenInOrder : Obligations.InputIsTakenInOrder := by
  intro i s t h
  cases i with
  | halt => exact .inl (exec_toInstr_stream (op := .halt) h)
  | reject => exact .inl (exec_toInstr_stream (op := .reject) h)
  | dispatch => exact .inl (exec_toInstr_stream (op := .dispatch) h)
  | unknown => exact .inl (exec_toInstr_stream (op := .unknown) h)
  | idle => exact .inl (exec_toInstr_stream (op := .idle) h)
  | discard => exact .inl (exec_toInstr_stream (op := .discard) h)
  | sync => exact .inl (exec_toInstr_stream (op := .sync) h)
  | append => exact .inl (exec_toInstr_stream (op := .append) h)
  | poll =>
    cases h
    exact .inl (doPoll_stream s)
  | xchg n c p =>
    simp only [exec, execXchg] at h
    split at h
    · split at h
      · cases h
      · cases h
        exact .inl (doXchg_stream ..)
    · cases h
  | frameGeneral f => exact .inr ⟨.inl ⟨f, rfl⟩, f.bytes, (Host.Outcome.next.inj h).symm⟩
  | frameP1 c p => exact .inr ⟨.inr (.inl ⟨c, p, rfl⟩), wireP1 c p, (Host.Outcome.next.inj h).symm⟩
  | frameP2 d c p e =>
    exact .inr ⟨.inr (.inr (.inl ⟨d, c, p, e, rfl⟩)), wireP2 d c p e, (Host.Outcome.next.inj h).symm⟩
  | frameP3 b0 l => exact .inr ⟨.inr (.inr (.inr (.inl ⟨b0, l, rfl⟩))), wireP3 b0 l, (Host.Outcome.next.inj h).symm⟩
  | layoutP4 n g l =>
    exact .inr ⟨.inr (.inr (.inr (.inr ⟨n, g, l, rfl⟩))), wireP4 n g l, (Host.Outcome.next.inj h).symm⟩
  | reservedKind0001 | reservedKind1001 | reservedKind0110 | reservedKind0111 | reservedKind1110 | reservedKind1111
  | reservedHost110 | reservedHost111 => cases h
  | nop | reset | markFailed | rdU8 | rdI8 | rdU16le | rdU16be | rdI16le | rdI16be | rdU32le | rdU32be | rdI32le
  | rdI32be | ckNone | ckSum8 | ckNeg8 | ckCustom | field | log | cmdP1FactoryReset =>
    cases h
    exact .inl List.suffix_rfl
  | bitfield p sink off hi lo map =>
    simp only [exec, execBitfield] at h
    split at h <;> cases h
    exact .inl List.suffix_rfl
  | targets p off items =>
    simp only [exec, execTargets] at h
    split at h <;> cases h
    exact .inl List.suffix_rfl
  | xmit n c p =>
    simp only [exec, execXmit] at h
    split at h <;> cases h
    exact .inl List.suffix_rfl
  | encodeFrame n c p =>
    simp only [exec, execEncodeFrame] at h
    split at h <;> cases h
    exact .inl List.suffix_rfl

end Sys2Proof.Machine
end

section
/-! PROOF. The family 30_encoding: that the decoder takes back every well-formed operation from its word, that a step
runs what the decoder answers, the bits of the selection word, and what the rows of a layout and of a reserved kind do. -/

namespace Sys2Proof

/-! ## What is read off the end of a word -/

/-- A reader that takes a value and leaves the bytes after it takes the value at the end of the word too. -/
theorem read_at_end {α : Type} {get : List Byte → Option (α × List Byte)} {put : List Byte} {a : α}
    (h : ∀ l, get (put ++ l) = some (a, l)) : get put = some (a, []) := by
  simpa using h []

@[simp] theorem atEnd_some_nil {α : Type} (a : α) : atEnd (some (a, [])) = some a := rfl

@[simp] theorem bareOperands_nil (i : Instr) : bareOperands i [] = some i := rfl

/-- The two bytes of a 16-bit number, the low one first, give it back. -/
theorem low_add_high {n : Nat} (h : n < 65536) :
    (BitVec.ofNat 8 (n % 256)).toNat + 256 * (BitVec.ofNat 8 (n / 256)).toNat = n := by
  simp only [BitVec.toNat_ofNat]
  omega

/-! ## Operands -/

theorem rdOperands_putRd (mk : List Byte → Nat → Instr) {p : List Byte} {off : Nat}
    (h : (strOk p && fits16 off) = true) : rdOperands mk (putRd p off) = some (mk p off) := by
  obtain ⟨hp, hoff⟩ := Bool.and_eq_true_iff.mp h
  simp [rdOperands, putRd, getStr_putStr hp, read_at_end (get16_put16 (fits16_iff.mp hoff))]

theorem spanOperands_putStr (mk : List Byte → Instr) {p : List Byte} (h : strOk p = true) :
    spanOperands mk (putStr p) = some (mk p) := by
  simp [spanOperands, read_at_end (getStr_putStr h)]

theorem decodeCkCode_custom {fn : Nat} {span : List Byte} (h : (Instr.ckCustom fn span).wf = true) :
    decodeCkCode 3 (put16 fn ++ putStr span) = some (.ckCustom fn span) := by
  obtain ⟨hfn, hspan⟩ := Bool.and_eq_true_iff.mp h
  simp [decodeCkCode, get16_put16 (fits16_iff.mp hfn), read_at_end (getStr_putStr hspan)]

theorem requestOperands_putRequest (mk : Nat → Option Nat → List Byte → Instr) {t : Nat} {c : Option Nat}
    {p : List Byte} (h : (fits16 t && optOk c && strOk p) = true) :
    requestOperands mk (putRequest t c p) = some (mk t c p) := by
  simp only [Bool.and_eq_true, fits16_iff] at h
  obtain ⟨⟨ht, hc⟩, hp⟩ := h
  simp [requestOperands, putRequest, get16_put16 ht, getCmd_putCmd hc, read_at_end (getStr_putStr hp)]

/-! ## The wire layouts (R82, R85 to R88) -/

theorem readP1_wireP1 (cmd : Byte) {payload : List Byte} (h : payload.length ≤ 253) :
    readP1 (wireP1 cmd payload) = some (.frameP1 cmd payload) := by
  simp [readP1, wireP1, h]

theorem readP2_wireP2 {hdr : List Byte} {cmd : Nat} {payload tail : List Byte} (hhdr : hdr.length = 4)
    (hcmd : cmd < 65536) (hpayload : payload.length ≤ 65533) (htail : tail.length = 4) :
    readP2 (wireP2 hdr cmd payload tail) = some (.frameP2 hdr cmd payload tail) := by
  obtain ⟨h0, h1, h2, h3, rfl⟩ := List.length_eq_four.mp hhdr
  have hrest : (payload ++ tail).length - 4 = payload.length := by simp [htail]
  simp only [readP2, wireP2, List.cons_append, List.nil_append, low_add_high hcmd, hrest, List.take_left,
    List.drop_left]
  simp [hpayload, htail]

theorem readP3_wireP3 (b0 : Byte) {body : List Byte} (h : body.length = 7) :
    readP3 (wireP3 b0 body) = some (.frameP3 b0 body) := by
  have hbody (ck : List Byte) : (body ++ ck).take 7 = body := by rw [← h, List.take_left]
  simp [readP3, wireP3, hbody, h]

/-- The five sizes before the wire bytes cut a general frame where its parts were joined. -/
theorem readGeneral_bytes {f : WireFrame} (h : f.wf = true) :
    readGeneral (put8 f.hdr.length ++ put8 f.lenField.length ++ put8 f.cmd.length ++ put8 f.ck.length ++
      put8 f.tail.length ++ f.bytes) = some (.frameGeneral f) := by
  obtain ⟨hdr, lenField, cmd, payload, ck, tail⟩ := f
  simp only [WireFrame.wf, Bool.and_eq_true, decide_eq_true_eq] at h
  obtain ⟨⟨⟨⟨⟨_, hhdr⟩, hlen⟩, hcmd⟩, hck⟩, htail⟩ := h
  have size {n : Nat} (hn : n ≤ 4) : (BitVec.ofNat 8 n).toNat = n := by
    rw [BitVec.toNat_ofNat]
    omega
  have hpayload : (payload ++ (ck ++ tail)).length - ck.length - tail.length = payload.length := by
    simp only [List.length_append]
    omega
  simp only [readGeneral, put8, WireFrame.bytes, List.cons_append, List.nil_append, List.append_assoc, size hhdr,
    size (hlen.trans (by decide)), size (hcmd.trans (by decide)), size (hck.trans (by decide)), size htail,
    getN_append, Option.bind_some, hpayload]
  simp [getN]

/-! ## Handler items (R214) -/

theorem decodeItemCode_field {p : List Byte} {sink off : Nat} {kind : Kind} {scale : Option Nat}
    (h : (Instr.field p sink off kind scale).wf = true) :
    decodeItemCode 0 (putStr p ++ put16 sink ++ put16 off ++ put8 kind.code ++ putOpt scale) =
      some (.field p sink off kind scale) := by
  simp only [Instr.wf, Bool.and_eq_true, fits16_iff] at h
  obtain ⟨⟨⟨hp, hsink⟩, hoff⟩, hscale⟩ := h
  simp [decodeItemCode, getStr_putStr hp, get16_put16 hsink, get16_put16 hoff, getKind_putKind,
    read_at_end (getOpt_putOpt hscale)]

theorem decodeItemCode_bitfield {p : List Byte} {sink off hi lo map : Nat}
    (h : (Instr.bitfield p sink off hi lo map).wf = true) :
    decodeItemCode 1 (putStr p ++ put16 sink ++ put16 off ++ put8 hi ++ put8 lo ++ put16 map) =
      some (.bitfield p sink off hi lo map) := by
  simp only [Instr.wf, Bool.and_eq_true, fits16_iff, decide_eq_true_eq] at h
  obtain ⟨⟨⟨⟨⟨hp, hsink⟩, hoff⟩, hhi⟩, hlo⟩, hmap⟩ := h
  simp [decodeItemCode, getStr_putStr hp, get16_put16 hsink, get16_put16 hoff, get8_put8 (n := hi) (by omega),
    get8_put8 (n := lo) (by omega), read_at_end (get16_put16 hmap)]

theorem decodeItemCode_targets {p : List Byte} {off : Nat} {items : List RecItem}
    (h : (Instr.targets p off items).wf = true) :
    decodeItemCode 2 (putStr p ++ put16 off ++ put16 items.length ++ items.flatMap putRecItem) =
      some (.targets p off items) := by
  simp only [Instr.wf, Bool.and_eq_true, fits16_iff] at h
  obtain ⟨⟨⟨hp, hoff⟩, hlength⟩, hitems⟩ := h
  simp [decodeItemCode, getStr_putStr hp, get16_put16 hoff, get16_put16 hlength,
    read_at_end (getRecItems_putRecItems hitems)]

theorem decodeItemCode_log {tag : Tag} (h : tag.wf = true) : decodeItemCode 3 (putTag tag) = some (.log tag) := by
  simp [decodeItemCode, read_at_end (getTag_putTag h)]

/-! ## Whole words -/

/-- The word of a well-formed operation names it: the head selects the table and the row, and the operands read back. -/
theorem parseWord_encode {i : Instr} (h : i.wf = true) : parseWord (encode i) = some i := by
  cases i with
  | halt | reject | dispatch | unknown | idle | discard | sync | append => rfl
  | reservedKind0001 | reservedKind1001 | reservedKind0110 | reservedKind0111 | reservedKind1110
  | reservedKind1111 => rfl
  | nop | poll | reset | markFailed | reservedHost110 | reservedHost111 | cmdP1FactoryReset => rfl
  | rdU8 | rdI8 | rdU16le | rdU16be | rdI16le | rdI16be | rdU32le | rdU32be | rdI32le | rdI32be =>
    exact rdOperands_putRd _ h
  | ckNone | ckSum8 | ckNeg8 => exact spanOperands_putStr _ h
  | ckCustom fn span => exact decodeCkCode_custom h
  | xmit | xchg | encodeFrame => exact requestOperands_putRequest _ h
  | frameGeneral f => exact readGeneral_bytes h
  | frameP1 cmd payload => exact readP1_wireP1 cmd (of_decide_eq_true h)
  | frameP2 hdr cmd payload tail =>
    simp only [Instr.wf, Bool.and_eq_true, beq_iff_eq, fits16_iff, decide_eq_true_eq] at h
    obtain ⟨⟨⟨hhdr, hcmd⟩, hpayload⟩, htail⟩ := h
    exact readP2_wireP2 hhdr hcmd hpayload htail
  | frameP3 b0 body => exact readP3_wireP3 b0 (beq_iff_eq.mp h)
  | layoutP4 count flags records => rfl
  | field => exact decodeItemCode_field h
  | bitfield => exact decodeItemCode_bitfield h
  | targets => exact decodeItemCode_targets h
  | log tag => exact decodeItemCode_log h

theorem decode_eq_some {w : List Byte} {i : Instr} : decode w = some i ↔ parseWord w = some i ∧ i.wf = true := by
  simp [decode, Option.filter_eq_some_iff]

end Sys2Proof

namespace Sys2Proof.Machine

/-! ## Steps -/

theorem step_of_port_nil {s : State} (h : s.port = []) : step s = .next s := by
  simp [step, State.nextWord, h]

/-- With a word at the port the step is decided by what the word decodes to. -/
theorem step_of_port_cons {s : State} {w : List Byte} {r : List (List Byte)} (h : s.port = w :: r) :
    step s = (decode w).elim (.refused .undecodable) fun i => exec i { s with port := r } := by
  simp only [step, State.nextWord, h]
  cases decode w <;> rfl

/-! ## The selection word (R101) -/

/-- Seven flags packed into a selection word are its bits. -/
theorem selWord_bits : ∀ f h r a m v k : Bool,
    let w := BitVec.ofNat 7 (64 * bit f + 32 * bit h + 16 * bit r + 8 * bit a + 4 * bit m + 2 * bit v + bit k)
    w.getLsbD 6 = f ∧ w.getLsbD 5 = h ∧ w.getLsbD 4 = r ∧ w.getLsbD 3 = a ∧ w.getLsbD 2 = m ∧ w.getLsbD 1 = v ∧
      w.getLsbD 0 = k := by decide

theorem ready_of_not_hf {s : State} (h : s.hf = false) : s.ready = false := by simp [State.ready, h]

theorem headIsFirst_of_not_avail {s : State} (h : s.avail = false) : s.headIsFirst = false := by
  have hq : s.q = [] := by simpa [State.avail] using h
  simp [State.headIsFirst, State.peek, hq]

theorem valid_of_not_ready {s : State} (h : s.ready = false) : s.valid = false := by simp [State.valid, h]

theorem known_of_not_valid {s : State} (h : s.valid = false) : s.known = false := by simp [State.known, h]

/-- A bit that is forced to 0 with another is their conjunction. -/
theorem eq_and_of_forced {a b : Bool} (h : a = false → b = false) : b = (a && b) := by
  cases a with
  | false => exact h rfl
  | true => exact (Bool.true_and b).symm

/-! ## Layouts on the wire (R85 to R87) -/

theorem wireP1_eq (cmd : Byte) (payload : List Byte) :
    wireP1 cmd payload = [0xFA, 0xFB, BitVec.ofNat 8 (payload.length + 2), cmd] ++ payload ++
      [BitVec.ofNat 8 ((cmd :: payload).map BitVec.toNat).sum, 0xFC, 0xFD] := by
  simp [wireP1, byteSum_eq_sum]

/-- The low byte of a number is the number modulo 256. -/
theorem ofNat_mod_256 (n : Nat) : BitVec.ofNat 8 (n % 256) = BitVec.ofNat 8 n := by
  apply BitVec.eq_of_toNat_eq
  simp

theorem wireP2_eq (hdr : List Byte) (cmd : Nat) (payload tail : List Byte) :
    wireP2 hdr cmd payload tail = hdr ++
      [BitVec.ofNat 8 (payload.length + 2), BitVec.ofNat 8 ((payload.length + 2) / 256),
        BitVec.ofNat 8 cmd, BitVec.ofNat 8 (cmd / 256)] ++ payload ++ tail := by
  simp only [wireP2, ofNat_mod_256]

/-- The complement the source writes as `0x100 - SUM8` is the negative of the sum as a byte (R87, R182). -/
theorem ofNat_256_sub_mod (n : Nat) : BitVec.ofNat 8 (256 - n % 256) = -BitVec.ofNat 8 n := by
  apply BitVec.eq_of_toNat_eq
  simp

theorem wireP3_eq (b0 : Byte) (body : List Byte) :
    wireP3 b0 body = [b0] ++ body ++ [-(BitVec.ofNat 8 (body.map BitVec.toNat).sum)] := by
  simp only [wireP3, ofNat_256_sub_mod, byteSum_eq_sum, List.cons_append, List.nil_append]

/-! ## The obligations -/

/-- Settles O58: the word names the operation, and the decoder keeps what is well-formed. -/
theorem decodeEncodeAgree : Obligations.DecodeEncodeAgree :=
  fun _ h => decode_eq_some.mpr ⟨parseWord_encode h, h⟩

/-- Settles O1: the seven flags are the bits, and each of M, V and K is forced to 0 with the flag before it. -/
theorem selectionWordBits : Obligations.SelectionWordBits := by
  intro s
  obtain ⟨h6, h5, h4, h3, h2, h1, h0⟩ :=
    selWord_bits s.failed s.hf s.ready s.avail s.headIsFirst s.valid s.known
  exact ⟨h6, h5, h4, h3, h2.trans (eq_and_of_forced headIsFirst_of_not_avail),
    h1.trans (eq_and_of_forced valid_of_not_ready), h0.trans (eq_and_of_forced known_of_not_valid),
    ready_of_not_hf, headIsFirst_of_not_avail, valid_of_not_ready, known_of_not_valid⟩

/-- Settles O2, by looking at the 128 words. -/
theorem everyWordHitsExactlyOnePattern : Obligations.EveryWordHitsExactlyOnePattern := by
  unfold Obligations.EveryWordHitsExactlyOnePattern
  decide

/-- Settles O33: the meaning of each reserved code is its refusal, in every state. -/
theorem reservedKindsAreRefused : Obligations.ReservedKindsAreRefused :=
  fun _ => ⟨rfl, rfl, rfl, rfl, rfl, rfl⟩

/-- Settles O34: a FRAME row produces its layout's bytes, and each layout is the bytes the rules write. -/
theorem frameRowsDeliverTheirLayout : Obligations.FrameRowsDeliverTheirLayout := by
  intro s f hdr payload tail body records cmd b0 count flags c
  refine ⟨rfl, ?p1, ?p2, ?p3, rfl⟩
  case p1 => rw [← wireP1_eq]; rfl
  case p2 => rw [← wireP2_eq]; rfl
  case p3 => rw [← wireP3_eq]; rfl

/-- Settles O56. -/
theorem stepRunsTheDecodedOperation : Obligations.StepRunsTheDecodedOperation := by
  intro s w r
  refine ⟨step_of_port_nil, fun hport => ⟨fun i hi => ?_, fun hnone => ?_⟩⟩
  · exact ⟨(decode_eq_some.mp hi).2, by rw [step_of_port_cons hport, hi, Option.elim_some]⟩
  · rw [step_of_port_cons hport, hnone, Option.elim_none]

/-- Settles O57, by running the decoder on the eight words. -/
theorem wordsFromTheSpecDecode : Obligations.WordsFromTheSpecDecode := by
  unfold Obligations.WordsFromTheSpecDecode
  decide

end Sys2Proof.Machine
end

section
/-! PROOF. The family 40_step_pipeline: what the selected micro-operation does in each case, that it makes progress
towards quiescence (R133), that a run of micro-steps is determined by the bytes to come alone (R130, R134), and how a
valid frame passes through the pipeline (R131, R132). -/

namespace Sys2Proof.Machine

open Sys2Proof.Config (Profile FrameType withinCap)

/-! ## What the selected micro-operation does -/

theorem perform_discard_cons {s : State} {b : Byte} {r : List Byte} (h : s.q = b :: r) :
    perform .discard s = { s with q := r } := by
  simp [perform, doDiscard, State.pop_cons h]

/-- SYNC and APPEND write the same: the head byte goes to the buffer's end and `hf` is set (R144, R146). -/
theorem perform_gather_cons {op : MicroOp} {s : State} {b : Byte} {r : List Byte} (hop : op = .sync ∨ op = .append)
    (h : s.q = b :: r) : perform op s = { s with q := r, hf := true, mem := memoryOf (s.buf ++ [b]) } := by
  rcases hop with rfl | rfl <;> exact doSync_cons h

theorem perform_reject_of_cause {s : State} {c : Cause} (h : rejectCause s.prof s.buf = some c) :
    perform .reject s =
      { s with trace := s.trace ++ [.warn (.malformed c)], mem := [], hf := false, warn := true } := by
  simp [perform, doReject, h]

theorem known_of_valid {s : State} {f : Front} (hv : s.valid = true) (hf : s.front = some f) :
    s.known = (handlerOf f.ty f.cmd).isSome := by
  simp [State.known, hv, hf]

theorem select_of_valid {s : State} (hfail : s.failed = false) (hv : s.valid = true) :
    s.select = if s.known then .dispatch else .unknown := by
  simp [select_eq_selectByPriority, State.selectByPriority, hfail, hv, (valid_eq_true.mp hv).1]

/-- DISPATCH and UNKNOWN alike: the frame's events, then the erase (R213, R220, R221, R222). -/
theorem perform_of_valid {s : State} {f : Front} (hfail : s.failed = false) (hv : s.valid = true)
    (hf : s.front = some f) : perform s.select s =
      { s with trace := s.trace ++ frameEvents s.prof f, mem := memoryOf (s.buf.drop f.total),
               hf := decide (f.total < s.len), warn := false } := by
  rw [select_of_valid hfail hv, known_of_valid hv hf]
  cases hh : handlerOf f.ty f.cmd with
  | none =>
    simp only [Option.isSome_none, Bool.false_eq_true, if_false, perform, doUnknown, hf, consume_eq, frameEvents, hh]
    simp only [State.emit, raise_unknownCommand, List.append_assoc, List.singleton_append]
    rfl
  | some items =>
    simp only [Option.isSome_some, if_true, perform, doDispatch, hf, consume_eq, frameEvents, hh, Option.getD_some]
    simp only [State.emit, State.emitAll, List.append_assoc, List.singleton_append]
    rfl

/-- What performing the selected micro-operation can be, with what the selection says of the state (R121). -/
inductive Turn (s t : State) : Prop where
  | ends (selected : endsPoll s.select = true) (result : t = s)
  | drop (b : Byte) (r : List Byte) (selected : s.select = .discard) (queue : s.q = b :: r)
      (result : t = { s with q := r })
  | gather (b : Byte) (r : List Byte) (selected : s.select = .sync ∨ s.select = .append) (queue : s.q = b :: r)
      (result : t = { s with q := r, hf := true, mem := memoryOf (s.buf ++ [b]) })
  | reject (c : Cause) (selected : s.select = .reject) (ready : s.ready = true)
      (cause : rejectCause s.prof s.buf = some c)
      (result : t =
        { s with trace := s.trace ++ [.warn (.malformed c)], mem := [], hf := false, warn := true })
  | frame (f : Front) (alive : s.failed = false) (valid : s.valid = true) (front : s.front = some f)
      (result : t =
        { s with trace := s.trace ++ frameEvents s.prof f, mem := memoryOf (s.buf.drop f.total),
                 hf := decide (f.total < s.len), warn := false })

theorem failed_eq_false_of_select {s : State} (h : s.select ≠ .halt) : s.failed = false := by
  cases hf : s.failed with
  | false => rfl
  | true => exact absurd (select_eq_halt_of_failed hf) h

/-- DISCARD is selected only where a byte is available (R101, R121). -/
theorem queue_of_select_discard {s : State} (h : s.select = .discard) : ∃ b r, s.q = b :: r := by
  have havail : s.avail = true := by
    rw [select_eq_selectByPriority, State.selectByPriority] at h
    grind
  exact List.exists_cons_of_ne_nil (by simpa [State.avail] using havail)

theorem turn (s : State) : Turn s (perform s.select s) := by
  have consumes (h : s.select = .dispatch ∨ s.select = .unknown) : Turn s (perform s.select s) := by
    have hfail : s.failed = false := failed_eq_false_of_select (by rcases h with h | h <;> simp [h])
    have hv := valid_of_select h
    obtain ⟨f, hf, _⟩ := front_of_valid hv
    exact .frame f hfail hv hf (perform_of_valid hfail hv hf)
  have gathers (h : s.select = .sync ∨ s.select = .append) : Turn s (perform s.select s) := by
    obtain ⟨b, r, hq⟩ := queue_of_select h
    exact .gather b r h hq (perform_gather_cons h hq)
  cases hsel : s.select with
  | halt => exact .ends (by rw [hsel]; rfl) rfl
  | idle => exact .ends (by rw [hsel]; rfl) rfl
  | dispatch => exact hsel ▸ consumes (.inl hsel)
  | unknown => exact hsel ▸ consumes (.inr hsel)
  | sync => exact hsel ▸ gathers (.inl hsel)
  | append => exact hsel ▸ gathers (.inr hsel)
  | discard =>
    obtain ⟨b, r, hq⟩ := queue_of_select_discard hsel
    exact .drop b r hsel hq (perform_discard_cons hq)
  | reject =>
    obtain ⟨hr, hv⟩ := select_eq_reject hsel
    obtain ⟨c, hc⟩ := exists_rejectCause hr hv
    exact .reject c hsel hr hc (perform_reject_of_cause hc)

/-- A micro-operation run by itself answers what it performs where it is selected, and is refused elsewhere. -/
theorem exec_toInstr_eq (op : MicroOp) (s : State) : exec op.toInstr s = whenSelected op s (perform op s) := by
  cases op <;> rfl

theorem decodeSel_selWord (s : State) : decodeSel s.selWord = some s.select := by
  simp only [State.select, State.selWord, decodeSel_bits, Option.getD_some]

/-! ## The micro-step and its end (R121, R122) -/

theorem arrive_of_future_nil {s : State} (h : s.future = []) : s.arrive = s := by
  simp [State.arrive, h]

/-- A micro-step with nothing still to arrive is the selected micro-operation alone. -/
theorem microStep_of_future_nil {s : State} (h : s.future = []) : microStep s = (s.select, perform s.select s) := by
  simp [microStep, arrive_of_future_nil h]

theorem endsPoll_eq_true {op : MicroOp} : endsPoll op = true ↔ op = .idle ∨ op = .halt := by
  simp [endsPoll]

theorem quiescent_eq_endsPoll (s : State) : s.quiescent = endsPoll s.select := rfl

theorem perform_of_endsPoll {op : MicroOp} {s : State} (h : endsPoll op = true) : perform op s = s := by
  rcases endsPoll_eq_true.mp h with rfl | rfl <;> rfl

/-- The micro-step that ends a POLL lets bytes arrive and does nothing else, so the POLL's end is quiescent (R123). -/
theorem microStep_of_endsPoll {s : State} (h : endsPoll (microStep s).1 = true) :
    (microStep s).2 = s.arrive ∧ s.arrive.quiescent = true :=
  ⟨perform_of_endsPoll h, h⟩

/-- A quiescent state with nothing still to arrive stays as it is. -/
theorem microStep_of_quiescent {s : State} (hf : s.future = []) (h : s.quiescent = true) : (microStep s).2 = s := by
  rw [microStep_of_future_nil hf]
  exact perform_of_endsPoll h

theorem microStep_future_nil {s : State} (h : s.future = []) : (microStep s).2.future = [] := by
  rw [microStep_of_future_nil h]
  exact (perform_sameRest _ s).2.trans h

/-! ## Runs of micro-steps -/

theorem microSteps_eq_iterate (n : Nat) (s : State) : microSteps n s = (fun t => (microStep t).2)^[n] s := by
  induction n generalizing s with
  | zero => rfl
  | succ n ih => exact ih _

theorem microSteps_succ_last (n : Nat) (s : State) : microSteps (n + 1) s = (microStep (microSteps n s)).2 := by
  simp only [microSteps_eq_iterate, Function.iterate_succ_apply']

theorem microSteps_add (m n : Nat) (s : State) : microSteps (m + n) s = microSteps n (microSteps m s) := by
  simp only [microSteps_eq_iterate, Nat.add_comm m n, Function.iterate_add_apply]

theorem microSteps_future_nil (n : Nat) {s : State} (h : s.future = []) : (microSteps n s).future = [] := by
  induction n with
  | zero => exact h
  | succ n ih => rw [microSteps_succ_last]; exact microStep_future_nil ih

theorem microSteps_of_quiescent (n : Nat) {s : State} (hf : s.future = []) (h : s.quiescent = true) :
    microSteps n s = s := by
  rw [microSteps_eq_iterate]
  exact Function.iterate_fixed (microStep_of_quiescent hf h) n

/-- With nothing still to arrive there is one quiescent state that micro-steps lead to. -/
theorem microSteps_quiescent_unique {s : State} {m n : Nat} (hf : s.future = [])
    (hm : (microSteps m s).quiescent = true) (hn : (microSteps n s).quiescent = true) :
    microSteps m s = microSteps n s :=
  calc microSteps m s
    _ = microSteps n (microSteps m s) := (microSteps_of_quiescent n (microSteps_future_nil m hf) hm).symm
    _ = microSteps m (microSteps n s) := by rw [← microSteps_add, Nat.add_comm, microSteps_add]
    _ = microSteps n s := microSteps_of_quiescent m (microSteps_future_nil n hf) hn

/-- POLL's loop is a run of micro-steps: up to and with the first that ends it, or as many as it may take (R122). -/
theorem pollLoop_eq_microSteps {n : Nat} (hn : 0 < n) (s : State) :
    ∃ m, m < n ∧ pollLoop n s = microSteps (m + 1) s ∧
      (∀ j, j < m → endsPoll (microStep (microSteps j s)).1 = false) ∧
      (endsPoll (microStep (microSteps m s)).1 = true ∨ m + 1 = n) := by
  induction n generalizing s with
  | zero => cases hn
  | succ n ih =>
    rw [pollLoop_succ]
    cases hend : endsPoll (microStep s).1 with
    | true => exact ⟨0, hn, rfl, by simp, .inl hend⟩
    | false =>
      rcases Nat.eq_zero_or_pos n with rfl | hpos
      · exact ⟨0, hn, rfl, by simp, .inr rfl⟩
      · obtain ⟨m, hm, heq, hbefore, hlast⟩ := ih hpos (microStep s).2
        refine ⟨m + 1, by omega, heq, fun j hj => ?_, hlast.imp id (congrArg (· + 1))⟩
        cases j with
        | zero => exact hend
        | succ j => exact hbefore j (by omega)

/-! ## Progress (R133) -/

/-- `t` has taken in a byte, or has fewer bytes buffered. -/
def Progress (s t : State) : Prop :=
  (t.stream.length + 1 = s.stream.length ∧ t.len ≤ s.len + 1) ∨ (t.stream = s.stream ∧ t.len < s.len)

/-- How many micro-operations can still come before the one that ends a POLL: a byte to come is taken in once and
erased once (R133). -/
def State.potential (s : State) : Nat := 2 * s.stream.length + s.len

theorem Progress.potential_lt {s t : State} (h : Progress s t) : t.potential < s.potential := by
  unfold State.potential
  rcases h with ⟨hstream, hlen⟩ | ⟨hstream, hlen⟩
  · omega
  · rw [hstream]; omega

theorem potential_lt_work (s : State) : s.potential < s.work := by
  simp only [State.potential, State.work, State.stream, List.length_append]
  omega

theorem pos_len_of_ready {s : State} (h : s.ready = true) : 0 < s.len := by
  have hbuf := (ready_eq_true.mp h).2
  simp only [readyBuf, Bool.and_eq_true, decide_eq_true_eq] at hbuf
  exact hbuf.1

/-- The frame a valid state erases has a byte at least (R10 item (a)). -/
theorem front_total_pos {s : State} {f : Front} (hv : s.valid = true) (hf : s.front = some f) : 0 < f.total := by
  obtain ⟨f', hf', htotal, _⟩ := front_of_valid hv
  obtain rfl : f = f' := Option.some.inj (hf.symm.trans hf')
  obtain ⟨i, t, ht, _⟩ := total_eq_some.mp htotal
  exact (roomFor_one s.profile (l := s.buf) (Option.isSome_iff_exists.mpr ⟨_, ht⟩)).2 _ htotal

theorem Turn.progress {s t : State} (h : Turn s t) (hsel : endsPoll s.select = false) : Progress s t := by
  cases h with
  | ends hends _ => simp [hends] at hsel
  | drop b r _ hq ht =>
    subst ht
    exact .inl ⟨by simp [State.stream, hq], Nat.le_succ _⟩
  | gather b r _ hq ht =>
    subst ht
    exact .inl ⟨by simp [State.stream, hq], by simp [State.len, State.buf]⟩
  | reject c _ hready _ ht =>
    subst ht
    exact .inr ⟨rfl, pos_len_of_ready hready⟩
  | frame f _ hv hf ht =>
    subst ht
    have hpos := front_total_pos hv hf
    have hlen := pos_len_of_ready (valid_eq_true.mp hv).1
    refine .inr ⟨rfl, ?_⟩
    simp only [State.len, State.buf, memoryBytes_memoryOf, List.length_drop] at hlen ⊢
    omega

/-- Each micro-step but the one that ends a POLL makes progress. -/
theorem microStep_progress {s : State} (h : endsPoll (microStep s).1 = false) : Progress s (microStep s).2 := by
  have hp : Progress s.arrive (microStep s).2 := (turn s.arrive).progress h
  have hlen : s.arrive.len = s.len := by
    rcases s.arrive_cases with ⟨_, e⟩ | ⟨l, r, _, e⟩ <;> rw [e]; rfl
  rwa [Progress, State.arrive_stream, hlen] at hp

theorem potential_microSteps {s : State} {m : Nat}
    (h : ∀ j, j < m → endsPoll (microStep (microSteps j s)).1 = false) :
    (microSteps m s).potential + m ≤ s.potential := by
  induction m with
  | zero => exact Nat.le_refl _
  | succ m ih =>
    have hbefore := ih fun j hj => h j (by omega)
    have hlast := (microStep_progress (h m (Nat.lt_succ_self m))).potential_lt
    rw [microSteps_succ_last]
    omega

/-- A loop with more turns than the potential ends in a micro-operation that ends it. -/
theorem pollLoop_ends {n : Nat} {s : State} (hn : s.potential < n) :
    ∃ m, m ≤ s.potential ∧ pollLoop n s = microSteps (m + 1) s ∧
      (∀ j, j < m → endsPoll (microStep (microSteps j s)).1 = false) ∧
      endsPoll (microStep (microSteps m s)).1 = true := by
  obtain ⟨m, _, heq, hbefore, hlast⟩ := pollLoop_eq_microSteps (Nat.zero_lt_of_lt hn) s
  have hm := potential_microSteps hbefore
  refine ⟨m, by omega, heq, hbefore, ?_⟩
  by_contra hend
  rw [Bool.not_eq_true] at hend
  have hprogress := (microStep_progress hend).potential_lt
  rcases hlast with h | rfl
  · simp [h] at hend
  · omega

theorem quiescent_of_endsPoll {s : State} {m : Nat} (h : endsPoll (microStep (microSteps m s)).1 = true) :
    (microSteps (m + 1) s).quiescent = true := by
  obtain ⟨heq, hq⟩ := microStep_of_endsPoll h
  rw [microSteps_succ_last, heq]
  exact hq

/-- A loop with more turns than the potential is a run of micro-steps to a quiescent state. -/
theorem pollLoop_quiescent {n : Nat} {s : State} (hn : s.potential < n) :
    (∃ m, pollLoop n s = microSteps m s) ∧ (pollLoop n s).quiescent = true := by
  obtain ⟨m, _, heq, _, hend⟩ := pollLoop_ends hn
  exact ⟨⟨m + 1, heq⟩, heq ▸ quiescent_of_endsPoll hend⟩

theorem pollFuel_of_no_budget {s : State} (h : s.prof.pollBudget = none) : s.pollFuel = s.work := by
  simp [State.pollFuel, h]

theorem pollFuel_of_budget {s : State} {n : Nat} (h : s.prof.pollBudget = some n) : s.pollFuel = n := by
  simp [State.pollFuel, h]

theorem doPoll_of_no_budget {s : State} (h : s.prof.pollBudget = none) : doPoll s = pollLoop s.work s := by
  rw [doPoll, pollFuel_of_no_budget h]

/-- With no budget and nothing still to arrive, a POLL ends in the one quiescent state that micro-steps lead to. -/
theorem doPoll_eq_of_quiescent {s t : State} (hb : s.prof.pollBudget = none) (hf : s.future = []) {n : Nat}
    (hn : microSteps n s = t) (ht : t.quiescent = true) : doPoll s = t := by
  obtain ⟨⟨m, hm⟩, hq⟩ := pollLoop_quiescent (potential_lt_work s)
  rw [doPoll_of_no_budget hb]
  subst hn
  rw [hm] at hq ⊢
  exact microSteps_quiescent_unique hf hq ht

/-- A POLL that finds nothing to do lets bytes arrive and ends (R123, R128). -/
theorem doPoll_of_endsPoll {s : State} (h : endsPoll (microStep s).1 = true) : doPoll s = s.arrive := by
  obtain ⟨n, hn⟩ := Nat.exists_eq_succ_of_ne_zero (pollFuel_pos s).ne'
  rw [doPoll, hn, pollLoop_succ, if_pos h]
  exact (microStep_of_endsPoll h).1

/-! ## The bytes to come decide the run (R130, R134) -/

/-- Two profiles that differ in `POLL_BUDGET` at most are one profile with two budgets. -/
theorem SameButBudget.eq_with {p p' : Profile} (h : SameButBudget p p') : ∃ b, p' = { p with pollBudget := b } :=
  ⟨_, h.symm⟩

theorem ftype_withBudget (p : Profile) (b : Option Nat) (l : List Byte) :
    ftype { p with pollBudget := b } l = ftype p l := by
  cases l <;> rfl

theorem readyBuf_withBudget (p : Profile) (b : Option Nat) (l : List Byte) :
    readyBuf { p with pollBudget := b } l = readyBuf p l := by
  simp only [readyBuf, isOversize, isComplete, total, ftype_withBudget]

theorem rejectCause_withBudget (p : Profile) (b : Option Nat) (l : List Byte) :
    rejectCause { p with pollBudget := b } l = rejectCause p l := by
  simp only [rejectCause, ftype_withBudget]

theorem recordEvents_withBudget (p : Profile) (b : Option Nat) (items : List RecItem) (l : List Byte)
    (off i n : Nat) :
    recordEvents { p with pollBudget := b } items l off i n = recordEvents p items l off i n := by
  induction n generalizing i with
  | zero => rfl
  | succ n ih => rw [recordEvents, recordEvents, ih]; rfl

theorem handlerEvents_withBudget (p : Profile) (b : Option Nat) (l : List Byte) (items : List Item) :
    handlerEvents { p with pollBudget := b } l items = handlerEvents p l items := by
  refine congrArg (fun g => items.flatMap g) (funext fun i => ?_)
  cases i with
  | single r => rfl
  | log tag => rfl
  | targets off rs => simp only [itemEvents, targetsEvents, recordEvents_withBudget]

theorem frameEvents_withBudget (p : Profile) (b : Option Nat) (f : Front) :
    frameEvents { p with pollBudget := b } f = frameEvents p f := by
  simp only [frameEvents, handlerEvents_withBudget]

theorem avail_eq_isSome_peek (s : State) : s.avail = s.peek.isSome := by
  unfold State.avail State.peek
  cases s.q <;> rfl

theorem SameOutcome.symm {s t : State} (h : SameOutcome s t) : SameOutcome t s := by
  obtain ⟨htrace, hmem, hhf, hwarn, hfailed⟩ := h
  exact ⟨htrace.symm, hmem.symm, hhf.symm, hwarn.symm, hfailed.symm⟩

theorem SameOutcome.trans {s t u : State} (h : SameOutcome s t) (h' : SameOutcome t u) : SameOutcome s u := by
  obtain ⟨htrace, hmem, hhf, hwarn, hfailed⟩ := h
  obtain ⟨htrace', hmem', hhf', hwarn', hfailed'⟩ := h'
  exact ⟨htrace.trans htrace', hmem.trans hmem', hhf.trans hhf', hwarn.trans hwarn', hfailed.trans hfailed'⟩

/-- `t` has in its queue, all at once, what `s` has still to take in, and `l` after it; for the rest the parser cannot
tell them apart, but for `POLL_BUDGET`. -/
structure Ahead (l : List Byte) (s t : State) : Prop where
  outcome : SameOutcome s t
  prof : SameButBudget s.prof t.prof
  future : t.future = []
  queue : t.q = s.stream ++ l

namespace Ahead

variable {l : List Byte} {s t : State}

theorem hf_eq (h : Ahead l s t) : t.hf = s.hf := by
  obtain ⟨_, _, hhf, _, _⟩ := h.outcome
  exact hhf.symm

theorem failed_eq (h : Ahead l s t) : t.failed = s.failed := by
  obtain ⟨_, _, _, _, hfailed⟩ := h.outcome
  exact hfailed.symm

theorem buf_eq (h : Ahead l s t) : t.buf = s.buf := by
  obtain ⟨_, hmem, _, _, _⟩ := h.outcome
  exact congrArg memoryBytes hmem.symm

theorem ready_eq (h : Ahead l s t) : t.ready = s.ready := by
  obtain ⟨b, hb⟩ := h.prof.eq_with
  simp only [State.ready, h.hf_eq, h.buf_eq, hb, readyBuf_withBudget]

theorem rejectCause_eq (h : Ahead l s t) : rejectCause t.prof t.buf = rejectCause s.prof s.buf := by
  obtain ⟨b, hb⟩ := h.prof.eq_with
  rw [h.buf_eq, hb, rejectCause_withBudget]

theorem valid_eq (h : Ahead l s t) : t.valid = s.valid := by
  simp only [State.valid, h.ready_eq, h.rejectCause_eq]

theorem front_eq (h : Ahead l s t) : t.front = s.front := by
  obtain ⟨b, hb⟩ := h.prof.eq_with
  simp only [State.front, h.buf_eq, hb, ftype_withBudget]

theorem known_eq (h : Ahead l s t) : t.known = s.known := by
  simp only [State.known, h.valid_eq, h.front_eq]

theorem frameEvents_eq (h : Ahead l s t) (f : Front) : frameEvents t.prof f = frameEvents s.prof f := by
  obtain ⟨b, hb⟩ := h.prof.eq_with
  rw [hb, frameEvents_withBudget]

theorem queue_cons (h : Ahead l s t) {b : Byte} {r : List Byte} (hq : s.q = b :: r) :
    t.q = b :: (r ++ s.future.flatten ++ l) := by
  simp [h.queue, State.stream, hq]

/-- With the same byte at the heads of their queues, or none, both select the same. -/
theorem select_eq_of_head (h : Ahead l s t) (hq : t.peek = s.peek) : t.select = s.select := by
  have havail : t.avail = s.avail := by rw [avail_eq_isSome_peek, avail_eq_isSome_peek, hq]
  have hfirst : t.headIsFirst = s.headIsFirst := by
    obtain ⟨b, hb⟩ := h.prof.eq_with
    simp only [State.headIsFirst, hq, hb]
    rfl
  simp only [select_eq_selectByPriority, State.selectByPriority, h.failed_eq, h.ready_eq, h.valid_eq, h.known_eq,
    h.hf_eq, havail, hfirst]

/-- Where `s` does not wait for a byte, both select the same: no byte is needed, or `s` has one. -/
theorem select_eq (h : Ahead l s t) (hsel : s.select ≠ .idle) : t.select = s.select := by
  cases hq : s.q with
  | cons b r => exact h.select_eq_of_head (by rw [State.peek, State.peek, hq, h.queue_cons hq]; rfl)
  | nil =>
    have havail : s.avail = false := by simp [State.avail, hq]
    rw [select_eq_selectByPriority] at hsel
    simp only [select_eq_selectByPriority, State.selectByPriority, havail, h.failed_eq, h.ready_eq, h.valid_eq,
      h.known_eq] at hsel ⊢
    grind

/-- Both states perform the selected micro-operation alike. -/
theorem perform (h : Ahead l s t) (hsel : endsPoll s.select = false) :
    Ahead l (perform s.select s) (perform t.select t) := by
  have hidle : s.select ≠ .idle := fun e => by simp [e, endsPoll] at hsel
  obtain ⟨htrace, hmem, hhf, hwarn, hfailed⟩ := h.outcome
  have hs := turn s
  generalize Machine.perform s.select s = s' at hs
  cases hs with
  | ends hends _ => simp [hends] at hsel
  | drop b r hop hq hs' =>
    rw [h.select_eq hidle, hop, perform_discard_cons (h.queue_cons hq), hs']
    exact ⟨⟨htrace, hmem, hhf, hwarn, hfailed⟩, h.prof, h.future, rfl⟩
  | gather b r hop hq hs' =>
    rw [h.select_eq hidle, perform_gather_cons hop (h.queue_cons hq), h.buf_eq, hs']
    exact ⟨⟨htrace, rfl, rfl, hwarn, hfailed⟩, h.prof, h.future, rfl⟩
  | reject c hop _ hc hs' =>
    rw [h.select_eq hidle, hop, perform_reject_of_cause (h.rejectCause_eq.trans hc), ← htrace, hs']
    exact ⟨⟨rfl, rfl, rfl, rfl, hfailed⟩, h.prof, h.future, h.queue⟩
  | frame f hfail hv hf hs' =>
    have hlen : t.len = s.len := congrArg List.length h.buf_eq
    rw [perform_of_valid (h.failed_eq.trans hfail) (h.valid_eq.trans hv) (h.front_eq.trans hf), h.frameEvents_eq,
      h.buf_eq, hlen, ← htrace, hs']
    exact ⟨⟨rfl, rfl, rfl, rfl, hfailed⟩, h.prof, h.future, h.queue⟩

theorem arrive (h : Ahead l s t) : Ahead l s.arrive t := by
  have hq : t.q = s.arrive.stream ++ l := by rw [State.arrive_stream]; exact h.queue
  rcases s.arrive_cases with ⟨_, e⟩ | ⟨_, _, _, e⟩ <;> rw [e] at hq ⊢
  · exact h
  · exact ⟨h.outcome, h.prof, h.future, hq⟩

/-- POLL's loop on `s` is some micro-steps on `t`: where it waits for a byte or halts, `t` need not move. -/
theorem pollLoop (n : Nat) (h : Ahead l s t) : ∃ m, Ahead l (pollLoop n s) (microSteps m t) := by
  induction n generalizing s t with
  | zero => exact ⟨0, h⟩
  | succ n ih =>
    rw [pollLoop_succ]
    cases hend : endsPoll (microStep s).1 with
    | true =>
      refine ⟨0, ?_⟩
      rw [if_pos rfl, (microStep_of_endsPoll hend).1]
      exact h.arrive
    | false =>
      have hstep : Ahead l (microStep s).2 (microStep t).2 := by
        rw [microStep_of_future_nil h.future]
        exact h.arrive.perform hend
      obtain ⟨m, hm⟩ := ih hstep
      exact ⟨m + 1, hm⟩

theorem polls (k : Nat) (h : Ahead l s t) : ∃ m, Ahead l (polls k s) (microSteps m t) := by
  induction k generalizing s t with
  | zero => exact ⟨0, h⟩
  | succ k ih =>
    obtain ⟨m, hm⟩ := h.pollLoop s.pollFuel
    obtain ⟨n, hn⟩ := ih hm
    exact ⟨m + n, by rw [microSteps_add]; exact hn⟩

/-- The first of the bytes of `l` delivered to `s`. -/
theorem produce {b : Byte} (h : Ahead (b :: l) s t) (hf : s.future = []) : Ahead l (s.produce [b]) t := by
  refine ⟨h.outcome, h.prof, h.future, ?_⟩
  simp [h.queue, State.stream, hf]

/-- Once `s` has nothing more to take in and is quiescent, so is `t`. -/
theorem quiescent (h : Ahead [] s t) (hf : s.future.flatten = []) (hq : s.quiescent = true) : t.quiescent = true := by
  have hsel : t.select = s.select := h.select_eq_of_head (by simp [State.peek, h.queue, State.stream, hf])
  rw [quiescent_eq_endsPoll, hsel]
  exact hq

end Ahead

/-- Everything still to arrive has arrived. -/
def State.allArrived (s : State) : State := { s with q := s.stream, future := [] }

theorem ahead_allArrived (s : State) : Ahead [] s s.allArrived :=
  ⟨⟨rfl, rfl, rfl, rfl, rfl⟩, rfl, rfl, (List.append_nil _).symm⟩

/-! ## The transducer (R129, R134) -/

theorem feed1_future_nil {s : State} (b : Byte) (h : s.future = []) : (feed1 s b).future = [] :=
  pollLoop_induction (P := fun t => t.future = []) (fun _ => microStep_future_nil) _ _ h

theorem feed1_quiescent (s : State) (b : Byte) : (feed1 s b).quiescent = true :=
  (pollLoop_quiescent (potential_lt_work _)).2

theorem pollLoop_trace_prefix (n : Nat) (s : State) : s.trace <+: (pollLoop n s).trace := by
  refine pollLoop_induction (P := fun t => s.trace <+: t.trace) (fun t ht => ht.trans ?_) n s List.prefix_rfl
  rw [← arrive_trace t]
  exact perform_trace_prefix _ _

theorem feed1_trace_prefix (s : State) (b : Byte) : s.trace <+: (feed1 s b).trace :=
  pollLoop_trace_prefix _ (s.produce [b])

theorem run_trace_prefix (s : State) (l : List Byte) : s.trace <+: (run s l).trace := by
  induction l generalizing s with
  | nil => exact List.prefix_rfl
  | cons b l ih => exact (feed1_trace_prefix s b).trans (ih _)

theorem run_append (s : State) (l l' : List Byte) : run s (l ++ l') = run (run s l) l' := List.foldl_append

theorem run_future_nil {s : State} (l : List Byte) (h : s.future = []) : (run s l).future = [] := by
  induction l generalizing s with
  | nil => exact h
  | cons b l ih => exact ih (feed1_future_nil b h)

theorem run_quiescent {s : State} (l : List Byte) (h : s.quiescent = true) : (run s l).quiescent = true := by
  induction l generalizing s with
  | nil => exact h
  | cons b l ih => exact ih (feed1_quiescent s b)

/-- Feeding the bytes of `l` one at a time is some micro-steps of the state that has them all. -/
theorem Ahead.run {s t : State} {l : List Byte} (h : Ahead l s t) (hf : s.future = []) :
    ∃ m, Ahead [] (run s l) (microSteps m t) := by
  induction l generalizing s t with
  | nil => exact ⟨0, h⟩
  | cons b l ih =>
    obtain ⟨m, hm⟩ := (h.produce hf).pollLoop (s.produce [b]).work
    obtain ⟨n, hn⟩ := ih hm (feed1_future_nil b hf)
    exact ⟨m + n, by rw [microSteps_add]; exact hn⟩

/-! ## A valid frame through the pipeline (R131, R132) -/

/-- `t` is reached from `s` by micro-steps. -/
def Reaches (s t : State) : Prop := ∃ n, microSteps n s = t

theorem Reaches.refl (s : State) : Reaches s s := ⟨0, rfl⟩

theorem Reaches.trans {s t u : State} (h : Reaches s t) (h' : Reaches t u) : Reaches s u := by
  obtain ⟨m, rfl⟩ := h
  obtain ⟨n, rfl⟩ := h'
  exact ⟨m + n, microSteps_add m n s⟩

/-- One micro-step with nothing still to arrive. -/
theorem Reaches.head {s t u : State} (hf : s.future = []) (ht : perform s.select s = t) (h : Reaches t u) :
    Reaches s u := by
  refine Reaches.trans ⟨1, ?_⟩ h
  exact (congrArg Prod.snd (microStep_of_future_nil hf)).trans ht

theorem select_eq_idle {s : State} (hfail : s.failed = false) (hr : s.ready = false) (hq : s.q = []) :
    s.select = .idle := by
  simp [select_eq_selectByPriority, State.selectByPriority, hfail, hr, State.avail, hq]

theorem select_seeking {s : State} {b : Byte} {r : List Byte} (hfail : s.failed = false) (hhf : s.hf = false)
    (hq : s.q = b :: r) : s.select = if isFirst s.prof b then .sync else .discard := by
  have hr := ready_of_not_hf hhf
  cases hb : isFirst s.prof b <;>
    simp [select_eq_selectByPriority, State.selectByPriority, hfail, hr, hhf, State.avail, State.headIsFirst,
      State.peek, hq, hb]

theorem select_eq_append_of_gathering {s : State} {b : Byte} {r : List Byte} (hfail : s.failed = false)
    (hhf : s.hf = true) (hr : s.ready = false) (hq : s.q = b :: r) : s.select = .append := by
  simp [select_eq_selectByPriority, State.selectByPriority, hfail, hr, hhf, State.avail, hq]

/-- Noise outside FIRST is dropped byte by byte (R132, R143). -/
theorem reaches_after_noise {s : State} {g r : List Byte} (hfail : s.failed = false) (hhf : s.hf = false)
    (hfut : s.future = []) (hq : s.q = g ++ r) (hg : ∀ b ∈ g, isFirst s.prof b = false) :
    Reaches s { s with q := r } := by
  induction g generalizing s with
  | nil =>
    obtain rfl : s.q = r := hq
    exact Reaches.refl s
  | cons b g ih =>
    have hsel : s.select = .discard := by rw [select_seeking hfail hhf hq, hg b List.mem_cons_self]; rfl
    refine Reaches.head hfut (hsel ▸ perform_discard_cons hq) ?_
    exact ih (s := { s with q := g ++ r }) hfail hhf hfut rfl fun c hc => hg c (List.mem_cons_of_mem b hc)

/-- The state that has gathered `l`. -/
def State.gathered (s : State) (l : List Byte) : State := { s with mem := memoryOf l, hf := true }

@[simp] theorem State.gathered_prof (s : State) (l : List Byte) : (s.gathered l).prof = s.prof := rfl

@[simp] theorem State.gathered_buf (s : State) (l : List Byte) : (s.gathered l).buf = l := memoryBytes_memoryOf l

@[simp] theorem State.gathered_ready (s : State) (l : List Byte) : (s.gathered l).ready = readyBuf s.prof l := by
  rw [State.ready, State.gathered_prof, State.gathered_buf]
  rfl

theorem ValidFrame.valid {s : State} {f : List Byte} (h : ValidFrame s f) : (s.gathered f).valid = true := by
  obtain ⟨hvalid, _⟩ := h
  exact hvalid

theorem ValidFrame.total_eq {s : State} {f : List Byte} (h : ValidFrame s f) : total s.prof f = some f.length := by
  obtain ⟨_, htotal⟩ := h
  exact htotal

theorem ValidFrame.front {s : State} {f : List Byte} (h : ValidFrame s f) :
    ∃ fr, (s.gathered f).front = some fr ∧ fr.total = f.length := by
  obtain ⟨fr, hfr, htotal, _⟩ := front_of_valid h.valid
  rw [State.gathered_buf] at htotal
  exact ⟨fr, hfr, Option.some.inj (htotal.symm.trans h.total_eq)⟩

/-- A valid frame begins with a byte of FIRST. -/
theorem ValidFrame.exists_cons {s : State} {f : List Byte} (h : ValidFrame s f) :
    ∃ b m, f = b :: m ∧ isFirst s.prof b = true := by
  obtain ⟨i, t, ht, _⟩ := total_eq_some.mp h.total_eq
  obtain ⟨b, m, rfl, _⟩ := ftype_eq_some ht
  exact ⟨b, m, rfl, by rw [← ftype_isSome_cons s.prof b m, ht]; rfl⟩

/-- A valid frame fits the buffer. -/
theorem ValidFrame.fits {s : State} {f : List Byte} (h : ValidFrame s f) :
    withinCap s.prof.bufCap f.length = true := by
  obtain ⟨i, t, ht, hn⟩ := total_eq_some.mp h.total_eq
  obtain ⟨_, hc⟩ := valid_eq_true.mp h.valid
  rw [State.gathered_prof, State.gathered_buf] at hc
  cases hw : withinCap s.prof.bufCap f.length with
  | true => rfl
  | false => simp [rejectCause, ht, hn, hw] at hc

/-- While bytes of a valid frame are missing, the frame is not ready (R165, R166). -/
theorem ValidFrame.not_ready {s : State} {b c : Byte} {l m : List Byte} (h : ValidFrame s (b :: l ++ c :: m)) :
    readyBuf s.prof (b :: l) = false := by
  obtain ⟨i, t, ht, hn⟩ := total_eq_some.mp h.total_eq
  by_contra hready
  rw [Bool.not_eq_false] at hready
  obtain ⟨n, hn', hor⟩ := (readyBuf_of_ftype (l := b :: l) ht).mp hready
  obtain rfl : n = _ := Option.some.inj ((totalOf_append (c :: m) hn').symm.trans hn)
  rcases hor with hcap | hle
  · exact Bool.false_ne_true (hcap.symm.trans h.fits)
  · simp only [List.length_append, List.length_cons] at hle
    omega

/-- Once the first byte of a valid frame is in the buffer, the others are appended (R146). -/
theorem reaches_gathered {s : State} {b : Byte} {l m r : List Byte} (hfail : s.failed = false) (hfut : s.future = [])
    (h : ValidFrame s (b :: l ++ m)) :
    Reaches { s.gathered (b :: l) with q := m ++ r } { s.gathered (b :: l ++ m) with q := r } := by
  induction m generalizing l with
  | nil => rw [List.append_nil]; exact Reaches.refl _
  | cons c m ih =>
    have hready : ({ s.gathered (b :: l) with q := c :: m ++ r } : State).ready = false :=
      (s.gathered_ready (b :: l)).trans h.not_ready
    have hsel := select_eq_append_of_gathering (s := { s.gathered (b :: l) with q := c :: m ++ r }) hfail rfl hready rfl
    have hassoc : b :: l ++ c :: m = b :: (l ++ [c]) ++ m := by simp
    rw [hassoc] at h ⊢
    refine Reaches.head hfut ?_ (ih h)
    rw [hsel, perform_gather_cons (.inr rfl) rfl]
    simp [State.gathered, State.buf]

/-- A valid frame at the head of the queue of a seeking state is gathered, yields its events, and leaves nothing but a
cleared `warn` (R124, R131). -/
theorem reaches_after_validFrame {s : State} {f r : List Byte} {fr : Front} (hfail : s.failed = false)
    (hhf : s.hf = false) (hmem : s.mem = []) (hfut : s.future = []) (hq : s.q = f ++ r) (h : ValidFrame s f)
    (hfr : (s.gathered f).front = some fr) :
    Reaches s { s with q := r, trace := s.trace ++ frameEvents s.prof fr, warn := false } := by
  obtain ⟨b, m, rfl, hb⟩ := h.exists_cons
  have hsync : perform s.select s = { s.gathered [b] with q := m ++ r } := by
    rw [select_seeking hfail hhf hq, if_pos hb, perform_gather_cons (.inl rfl) hq]
    simp [State.gathered, State.buf, hmem, memoryBytes]
  refine Reaches.head hfut hsync ((reaches_gathered (l := []) hfail hfut h).trans ?_)
  obtain ⟨fr', hfr', htotal⟩ := h.front
  obtain rfl : fr = fr' := Option.some.inj (hfr.symm.trans hfr')
  refine Reaches.head hfut (perform_of_valid (s := { s.gathered (b :: m) with q := r }) hfail h.valid hfr) ?_
  have hlen : ({ s.gathered (b :: m) with q := r } : State).len = fr.total :=
    (congrArg List.length (s.gathered_buf (b :: m))).trans htotal.symm
  have hrest : ({ s.gathered (b :: m) with q := r } : State).buf.drop fr.total = [] := by
    rw [← hlen]
    exact List.drop_length
  rw [hlen, hrest, decide_eq_false (Nat.lt_irrefl _), memoryOf_nil, ← hmem, ← hhf]
  exact Reaches.refl _

/-- A POLL that leads to a seeking state with an empty queue ends there. -/
theorem doPoll_eq_of_reaches {s t : State} (hb : s.prof.pollBudget = none) (hf : s.future = []) (h : Reaches s t)
    (hfail : t.failed = false) (hhf : t.hf = false) (hq : t.q = []) : doPoll s = t := by
  obtain ⟨n, hn⟩ := h
  refine doPoll_eq_of_quiescent hb hf hn ?_
  rw [quiescent_eq_endsPoll, select_eq_idle hfail (ready_of_not_hf hhf) hq]
  rfl

/-! ## The obligations -/

/-- Settles O3: the table and the priority list agree over all selection words. -/
theorem exactlyTheSelectedMicroOperationRuns : Obligations.ExactlyTheSelectedMicroOperationRuns := by
  intro s
  refine ⟨decodeSel_selWord s, select_eq_selectByPriority s, ?selected, fun op hop => ?others⟩
  case selected => rw [exec_toInstr_eq, whenSelected, if_pos rfl]
  case others => rw [exec_toInstr_eq, whenSelected, if_neg (Ne.symm hop)]

/-- Settles O6: with no budget the loop has more turns than the potential, with a budget `n` it has `n`. -/
theorem pollRunsMicroStepsUntilIdleHaltOrBudget : Obligations.PollRunsMicroStepsUntilIdleHaltOrBudget := by
  intro s
  cases hb : s.prof.pollBudget with
  | none =>
    obtain ⟨m, _, heq, hbefore, hend⟩ := pollLoop_ends (potential_lt_work s)
    rw [← doPoll_of_no_budget hb] at heq
    exact ⟨m + 1, Nat.succ_pos m, congrArg Host.Outcome.next heq, fun j hj => hbefore j (by omega), hend⟩
  | some n =>
    have hn : 0 < n := pollFuel_of_budget hb ▸ pollFuel_pos s
    obtain ⟨m, hm, heq, hbefore, hlast⟩ := pollLoop_eq_microSteps hn s
    have hpoll : doPoll s = microSteps (m + 1) s := by rw [doPoll, pollFuel_of_budget hb, heq]
    exact ⟨m + 1, Nat.succ_pos m, congrArg Host.Outcome.next hpoll, fun j hj => hbefore j (by omega), hm, hlast⟩

/-- Settles O7: each micro-step but the last lowers the potential. -/
theorem pollReachesQuiescenceWithinBound : Obligations.PollReachesQuiescenceWithinBound := by
  intro s hb
  obtain ⟨m, hm, heq, hbefore, hend⟩ := pollLoop_ends (potential_lt_work s)
  rw [← doPoll_of_no_budget hb] at heq
  refine ⟨m + 1, Nat.succ_pos m, ?bound, congrArg Host.Outcome.next heq, quiescent_of_endsPoll hend,
    fun j hj => ?progress⟩
  case bound =>
    unfold State.potential at hm
    omega
  case progress =>
    rcases microStep_progress (hbefore j (by omega)) with ⟨htaken, _⟩ | ⟨_, hshorter⟩
    · exact .inl htaken.le
    · exact .inr hshorter

/-- Settles O8: both runs are micro-steps of one state that has all bytes in its queue, and that state has one
quiescent end. -/
theorem groupingIndependence : Obligations.GroupingIndependence := by
  intro s s' k k' hout hprof hstream ⟨hquiet, hempty⟩ ⟨hquiet', hempty'⟩
  have hahead : Ahead [] s s'.allArrived :=
    ⟨hout, hprof, rfl, hstream.symm.trans (List.append_nil _).symm⟩
  obtain ⟨m, hm⟩ := hahead.polls k
  obtain ⟨m', hm'⟩ := (ahead_allArrived s').polls k'
  have hend : microSteps m s'.allArrived = microSteps m' s'.allArrived :=
    microSteps_quiescent_unique rfl (hm.quiescent (List.append_eq_nil_iff.mp hempty).2 hquiet)
      (hm'.quiescent (List.append_eq_nil_iff.mp hempty').2 hquiet')
  rw [hend] at hm
  exact hm.outcome.trans hm'.outcome.symm

/-- Settles O9: the POLL and the transducer alike are micro-steps of the state that has the whole string queued. -/
theorem onePollAgreesWithByteAtATime : Obligations.OnePollAgreesWithByteAtATime := by
  intro s l hb hf _ hquiet
  have hahead : Ahead l s (s.produce l) := ⟨⟨rfl, rfl, rfl, rfl, rfl⟩, rfl, hf, by simp [State.stream, hf]⟩
  obtain ⟨m, hm⟩ := hahead.run hf
  have hflat : (run s l).future.flatten = [] := by rw [run_future_nil l hf]; rfl
  have hpoll : doPoll (s.produce l) = microSteps m (s.produce l) :=
    doPoll_eq_of_quiescent hb hf rfl (hm.quiescent hflat (run_quiescent l hquiet))
  have hqueue : (microSteps m (s.produce l)).q = (run s l).q := by simp [hm.queue, State.stream, hflat]
  exact ⟨_, congrArg Host.Outcome.next hpoll, hm.outcome.symm, hqueue⟩

/-- Settles O10: feeding further bytes only adds to the trace. -/
theorem runTraceOfPrefixIsPrefix : Obligations.RunTraceOfPrefixIsPrefix := by
  intro s l l'
  rw [run_append]
  exact run_trace_prefix (run s l) l'

/-- Settles O39: the noise is dropped, then the frame passes. -/
theorem resynchronization : Obligations.Resynchronization := by
  intro s g f hb hfail hhf hmem hq hfut hg hf
  obtain ⟨fr, hfr, _⟩ := hf.front
  have hnoise : Reaches (s.produce (g ++ f)) { s with q := f } :=
    reaches_after_noise (s := s.produce (g ++ f)) hfail hhf hfut (by simp [hq]) hg
  have hframe := reaches_after_validFrame (s := { s with q := f }) (r := s.q) hfail hhf hmem hfut (by simp [hq]) hf hfr
  exact ⟨fr, hfr, congrArg Host.Outcome.next (doPoll_eq_of_reaches hb hfut (hnoise.trans hframe) hfail hhf hq)⟩

/-- Settles O40: the first frame passes and leaves the state in which the second one does. -/
theorem twoFramesInOneChunk : Obligations.TwoFramesInOneChunk := by
  intro s f g hb hfail hhf hmem hq hfut hf hg
  obtain ⟨fr, hfr, _⟩ := hf.front
  obtain ⟨gr, hgr, _⟩ := hg.front
  have hfirst := reaches_after_validFrame (s := s.produce (f ++ g)) (r := g) hfail hhf hmem hfut (by simp [hq]) hf hfr
  have hsecond := reaches_after_validFrame
    (s := { s with q := g, trace := s.trace ++ frameEvents s.prof fr, warn := false }) (r := s.q)
    hfail hhf hmem hfut (by simp [hq]) hg hgr
  exact ⟨fr, gr, hfr, hgr,
    congrArg Host.Outcome.next (doPoll_eq_of_reaches hb hfut (hfirst.trans hsecond) hfail hhf hq)⟩

/-- Settles O4. -/
theorem haltChangesNothing : Obligations.HaltChangesNothing := by
  intro s hfail
  exact ⟨whenSelected_eq_next.mpr ⟨select_eq_halt_of_failed hfail, rfl⟩,
    congrArg Host.Outcome.next (doPoll_of_failed hfail)⟩

/-- Settles O5: an arrival that brings no byte leaves the state waiting. -/
theorem idleChangesNothing : Obligations.IdleChangesNothing := by
  intro s hfail hready hq
  refine ⟨whenSelected_eq_next.mpr ⟨select_eq_idle hfail hready hq, rfl⟩, fun hq' => ?_⟩
  have hready' : s.arrive.ready = false := by
    rcases s.arrive_cases with ⟨_, e⟩ | ⟨_, _, _, e⟩ <;> rw [e] <;> exact hready
  have hsel : s.arrive.select = .idle := select_eq_idle ((arrive_failed s).trans hfail) hready' hq'
  exact congrArg Host.Outcome.next (doPoll_of_endsPoll (endsPoll_eq_true.mpr (.inl hsel)))

end Sys2Proof.Machine
end

section
/-! PROOF. The family 41_synchronizer: each micro-operation that takes a byte from the queue, in exactly the states
that select it (R143, R144, R146). -/

namespace Sys2Proof.Machine

/-- A micro-operation run by itself where it is selected answers what it performs (R102). -/
theorem exec_toInstr_of_select {op : MicroOp} {s t : State} (hsel : s.select = op) (hperf : perform op s = t) :
    exec op.toInstr s = .next t :=
  (exec_toInstr_eq op s).trans (whenSelected_eq_next.mpr ⟨hsel, hperf⟩)

/-- The flag write of APPEND is redundant: a state that gathers has `hf` set already (R147). -/
theorem perform_append_of_hf {s : State} {b : Byte} {r : List Byte} (hhf : s.hf = true) (hq : s.q = b :: r) :
    perform .append s = { s with q := r, mem := memoryOf (s.buf ++ [b]) } := by
  rw [perform_gather_cons (.inr rfl) hq, ← hhf]

/-- Settles O11: a seeking state whose head byte is outside FIRST selects DISCARD. -/
theorem discardDropsOneNoiseByte : Obligations.DiscardDropsOneNoiseByte := by
  intro s b r hfail hhf hq hnoise
  have hsel : s.select = .discard := by rw [select_seeking hfail hhf hq, hnoise]; rfl
  exact exec_toInstr_of_select hsel (perform_discard_cons hq)

/-- Settles O12: a seeking state whose head byte is in FIRST selects SYNC. -/
theorem syncMarksAndAppends : Obligations.SyncMarksAndAppends := by
  intro s b r hfail hhf hq hfirst
  have hsel : s.select = .sync := by rw [select_seeking hfail hhf hq, hfirst]; rfl
  exact exec_toInstr_of_select hsel (perform_gather_cons (.inl rfl) hq)

/-- Settles O13: a gathering state that is not ready selects APPEND, and the choice does not look at the head byte. -/
theorem appendTakesAnyByte : Obligations.AppendTakesAnyByte := by
  intro s b r hfail hhf hready hq
  have hsel : s.select = .append := select_eq_append_of_gathering hfail hhf hready hq
  exact exec_toInstr_of_select hsel (perform_append_of_hf hhf hq)

end Sys2Proof.Machine
end

section
/-! PROOF. The family 42_accumulator: when the total is known and what it is (R162, R163), that an append keeps it (R169),
when a buffer is complete and ready (R165, R166), and that APPEND has room for its byte (R168). -/

namespace Sys2Proof.Machine

open Sys2Proof.Config (Profile FrameType Admitted withinCap)

/-! ## The total length (R162, R163) -/

theorem total_of_ftype {p : Profile} {l : List Byte} {i : Nat} {t : FrameType} (h : ftype p l = some (i, t)) :
    total p l = totalOf t l := by
  simp [total, h]

theorem lenKnown_of_ftype_eq_none {p : Profile} {l : List Byte} (h : ftype p l = none) : lenKnown p l = false := by
  simp [lenKnown, h]

/-- The buffered length that `len_known` asks for is the one that reading the length field asks for. -/
theorem lenKnown_of_ftype {p : Profile} {l : List Byte} {i : Nat} {t : FrameType} (h : ftype p l = some (i, t)) :
    lenKnown p l = (totalOf t l).isSome := by
  cases hm : t.lenMode with
  | fixed n => simp [lenKnown, h, totalOf, hm]
  | field w e base => simp [lenKnown, h, totalOf, lengthField, hm, memRead_isSome]

theorem lenKnown_eq_isSome_total (p : Profile) (l : List Byte) : lenKnown p l = (total p l).isSome := by
  cases ht : ftype p l with
  | none => simp [lenKnown_of_ftype_eq_none ht, total, ht]
  | some x => rw [lenKnown_of_ftype ht, total_of_ftype ht]

theorem lenKnown_of_total_eq_some {p : Profile} {l : List Byte} {n : Nat} (h : total p l = some n) :
    lenKnown p l = true := by
  rw [lenKnown_eq_isSome_total, h]
  rfl

/-- With a type whose length is fixed, the total is that constant. -/
theorem total_of_fixed {p : Profile} {l : List Byte} {i n : Nat} {t : FrameType} (h : ftype p l = some (i, t))
    (hm : t.lenMode = .fixed n) : total p l = some n := by
  simp [total_of_ftype h, totalOf, hm]

/-- With a type that has a length field, the total is the value of the bytes there plus `LF_BASE`. -/
theorem total_of_field {p : Profile} {l f : List Byte} {i w base : Nat} {e : Endian} {t : FrameType}
    (h : ftype p l = some (i, t)) (hm : t.lenMode = .field w e base) (hf : memRead l t.hdr.length w = some f) :
    total p l = some (uint e f + base) := by
  simp [total_of_ftype h, totalOf, lengthField, hm, hf]

/-! ## The bytes of a length field (R63, R90) -/

theorem memRead_one_of_getElem? {l : List Byte} {off : Nat} {b : Byte} (h : l[off]? = some b) :
    memRead l off 1 = some [b] := by
  rw [memRead_one, h]
  rfl

theorem memRead_two_of_getElem? {l : List Byte} {off : Nat} {b c : Byte} (hb : l[off]? = some b)
    (hc : l[off + 1]? = some c) : memRead l off 2 = some [b, c] := by
  obtain ⟨hoff, rfl⟩ := List.getElem?_eq_some_iff.mp hb
  obtain ⟨hoff', rfl⟩ := List.getElem?_eq_some_iff.mp hc
  rw [memRead_eq_some (by omega), List.drop_eq_getElem_cons hoff, List.drop_eq_getElem_cons hoff']
  rfl

/-- One byte has the same value in both orders. -/
theorem uint_singleton (e : Endian) (b : Byte) : uint e [b] = b.toNat := by
  cases e <;> simp [uint, uintLE, uintBE]

theorem uint_le_pair (b c : Byte) : uint .le [b, c] = b.toNat + 256 * c.toNat := by simp [uint, uintLE]

theorem uint_be_pair (b c : Byte) : uint .be [b, c] = 256 * b.toNat + c.toNat := by
  simp [uint, uintBE, Nat.mul_comm]

/-! ## Completeness and readiness (R165, R166) -/

theorem isComplete_eq_true {p : Profile} {l : List Byte} :
    isComplete p l = true ↔ ∃ n, total p l = some n ∧ n ≤ l.length := by
  cases hn : total p l <;> simp [isComplete, hn]

theorem withinCap_eq_false {cap : Option Nat} {n : Nat} : withinCap cap n = false ↔ ∃ c, cap = some c ∧ c < n := by
  cases cap <;> simp [withinCap]

theorem isOversize_eq_true {p : Profile} {l : List Byte} :
    isOversize p l = true ↔ ∃ n cap, total p l = some n ∧ p.bufCap = some cap ∧ cap < n := by
  cases hn : total p l <;> simp [isOversize, hn, withinCap_eq_false]

theorem readyBuf_eq_true {p : Profile} {l : List Byte} :
    readyBuf p l = true ↔ 1 ≤ l.length ∧ (ftype p l = none ∨ isOversize p l = true ∨ isComplete p l = true) := by
  simp [readyBuf, or_assoc]

/-! ## Room (R168) -/

/-- Every admitted profile has a type, and room for the first byte of its header. -/
theorem withinCap_one (a : Admitted) : withinCap a.raw.bufCap 1 = true := by
  obtain ⟨t, ht⟩ := List.exists_mem_of_ne_nil _ (Admitted.types_ne_nil a)
  have hpos : 1 ≤ t.hdr.length := (FrameType.ok_bounds (Admitted.type_ok a ht)).1
  exact withinCap_mono (Admitted.cap_ok a ht) (by omega)

/-- A buffer that is not ready has room for one byte more, whether or not it has a type: without one it is empty. -/
theorem withinCap_succ_of_not_ready (a : Admitted) {l : List Byte} (h : readyBuf a.raw l = false) :
    withinCap a.raw.bufCap (l.length + 1) = true := by
  cases ht : ftype a.raw l with
  | none =>
    have hempty : l.length = 0 := by
      by_contra hne
      simp [readyBuf_eq_true.mpr ⟨Nat.one_le_iff_ne_zero.mpr hne, .inl ht⟩] at h
    rw [hempty]
    exact withinCap_one a
  | some x => exact (roomFor_succ_of_not_ready a 0 (by simp [ht]) h).1

/-! ## The obligations -/

/-- Settles O14: a state that selects APPEND gathers and is not ready. -/
theorem appendSelectedOnlyWithRoom : Obligations.AppendSelectedOnlyWithRoom := by
  intro s hsel
  obtain ⟨hhf, hready⟩ := select_eq_append hsel
  have hbuf : readyBuf s.prof s.buf = false := by simpa [State.ready, hhf] using hready
  exact withinCap_succ_of_not_ready s.profile hbuf

/-- Settles O15. -/
theorem totalDefinedExactlyWhenLengthKnown : Obligations.TotalDefinedExactlyWhenLengthKnown :=
  lenKnown_eq_isSome_total

/-- Settles O16: the type is read off the first byte, and the length field off bytes that stay where they are. -/
theorem typeAndTotalStayWhileGathering : Obligations.TypeAndTotalStayWhileGathering := by
  intro p l b i t n
  refine ⟨ftype_append [b], fun hn => ?total⟩
  obtain ⟨j, u, hu, hn⟩ := total_eq_some.mp hn
  exact total_eq_some.mpr ⟨j, u, ftype_append [b] hu, totalOf_append [b] hn⟩

/-- Settles O17: one clause per length mode, by the bytes the length field holds. -/
theorem totalIsLengthFieldPlusBase : Obligations.TotalIsLengthFieldPlusBase := by
  intro p l
  refine ⟨fun hk => ?unknown, fun i t ht base b0 b1 => ?known⟩
  case unknown => simpa [lenKnown_eq_isSome_total] using hk
  case known =>
    have one (e : Endian) (hm : t.lenMode = .field 1 e base) (h0 : l[t.hdr.length]? = some b0) :
        total p l = some (b0.toNat + base) := by
      rw [total_of_field ht hm (memRead_one_of_getElem? h0), uint_singleton]
    refine ⟨total_of_fixed ht, one .le, one .be, fun hm h0 h1 => ?le, fun hm h0 h1 => ?be⟩
    case le => rw [total_of_field ht hm (memRead_two_of_getElem? h0 h1), uint_le_pair]
    case be => rw [total_of_field ht hm (memRead_two_of_getElem? h0 h1), uint_be_pair]

/-- Settles O60: a total that has a value is known, so the `len_known` of both definitions comes with it. -/
theorem readyExactlyWhenSomethingCanBeDone : Obligations.ReadyExactlyWhenSomethingCanBeDone := by
  intro s
  constructor
  case left =>
    rw [isComplete_eq_true]
    exact ⟨fun ⟨n, hn, hle⟩ => ⟨lenKnown_of_total_eq_some hn, n, hn, hle⟩, And.right⟩
  case right =>
    rw [ready_eq_true, readyBuf_eq_true, isOversize_eq_true]
    refine and_congr_right fun _ => and_congr_right fun _ => or_congr_right (or_congr_left ?_)
    exact ⟨fun ⟨n, cap, hn, hcap⟩ => ⟨lenKnown_of_total_eq_some hn, n, cap, hn, hcap⟩, And.right⟩

end Sys2Proof.Machine
end

section
/-! PROOF. The family 43_validator: SUM8 and NEG8 as sums of bytes (R181, R182, R184), each check read off the bytes
(R185 to R188), the first cause that applies (R190), what the checks see of one flipped bit (R193), and REJECT (R196). -/

namespace Sys2Proof.Machine

open Sys2Proof.Config (Profile FrameType CkFn Admitted withinCap)

/-! ## SUM8 and NEG8 (R181, R182, R184) -/

theorem sum8_eq_ofNat (l : List Byte) : sum8 l = BitVec.ofNat 8 (l.map BitVec.toNat).sum := by
  rw [sum8, ofNat_mod_256, byteSum_eq_sum]

theorem neg8_eq_neg_sum8 (l : List Byte) : neg8 l = -sum8 l := by
  apply BitVec.eq_of_toNat_eq
  simp [neg8]

/-- SUM8 is the sum of the bytes as words, so reducing at the end is reducing after every addition (R184). -/
theorem sum8_eq_sum (l : List Byte) : sum8 l = l.sum := by
  induction l with
  | nil => rfl
  | cons b r ih => rw [List.sum_cons, ← ih, sum8_eq_ofNat, sum8_eq_ofNat]; simp [BitVec.ofNat_add]

/-- Replacing one byte changes SUM8 by the difference of the bytes. -/
theorem sum8_set_sub {l : List Byte} {i : Nat} {b : Byte} (h : l[i]? = some b) (c : Byte) :
    sum8 (l.set i c) - sum8 l = c - b := by
  obtain ⟨hi, rfl⟩ := List.getElem?_eq_some_iff.mp h
  rw [sum8_eq_sum, sum8_eq_sum, List.sum_set', dif_pos hi]
  abel

/-- Flipping a clear bit adds its weight: there is no carry. -/
theorem xor_bit_of_clear {b : Byte} {k : Nat} (h : b.getLsbD k = false) : b ^^^ (1#8 <<< k) = b + 1#8 <<< k := by
  have hand : b &&& 1#8 <<< k = 0#8 := by rw [← BitVec.twoPow_eq, BitVec.and_twoPow, h]; rfl
  rw [BitVec.add_eq_or_of_and_eq_zero _ _ hand]
  ext j hj
  rcases Nat.lt_trichotomy j k with hlt | rfl | hgt
  · simp [hlt]
  · simp [← BitVec.getLsbD_eq_getElem, h]
  · simp [Nat.sub_ne_zero_of_lt hgt]

/-- Flipping one bit adds its weight or takes it away (R184). -/
theorem xor_bit_sub {b : Byte} {k : Nat} (hk : k < 8) :
    (b ^^^ (1#8 <<< k)) - b = 1#8 <<< k ∨ (b ^^^ (1#8 <<< k)) - b = -(1#8 <<< k) := by
  cases hb : b.getLsbD k with
  | false => left; rw [xor_bit_of_clear hb]; abel
  | true =>
    have hclear : (b ^^^ (1#8 <<< k)).getLsbD k = false := by
      simp [← BitVec.twoPow_eq, hb, hk]
    have hback := xor_bit_of_clear hclear
    rw [BitVec.xor_assoc, BitVec.xor_self, BitVec.xor_zero] at hback
    right
    rw [sub_eq_iff_eq_add]
    nth_rw 2 [hback]
    abel

theorem one_shiftLeft_ne_zero {k : Nat} (hk : k < 8) : (1#8 <<< k) ≠ 0 := by
  intro h
  have := congrArg (BitVec.getLsbD · k) h
  simp [← BitVec.twoPow_eq, hk] at this

theorem xor_bit_ne {k : Nat} (hk : k < 8) (b : Byte) : b ^^^ (1#8 <<< k) ≠ b := fun h =>
  one_shiftLeft_ne_zero hk (xor_left_eq_self_iff.mp h)

/-! ## The checks, read off the bytes (R185 to R188) -/

theorem checkHeader_eq_true {t : FrameType} {l : List Byte} :
    checkHeader t l = true ↔ l.take t.hdr.length = t.hdr := by
  rw [checkHeader, beq_iff_eq]
  constructor
  case mp =>
    intro h
    unfold memRead at h
    split at h
    · simpa using h
    · cases h
  case mpr =>
    intro h
    have hle : t.hdr.length ≤ l.length := by
      have := congrArg List.length h
      rw [List.length_take] at this
      omega
    rw [memRead_eq_some (by omega), List.drop_zero, h]

theorem checkLength_eq_true {t : FrameType} {n : Nat} : checkLength t n = true ↔ t.minTotal ≤ n :=
  decide_eq_true_iff

/-- The tail is read inside the buffer, and an empty tail is there anyway. -/
theorem checkTail_eq_true {t : FrameType} {l : List Byte} {n : Nat} (htail : t.tail.length ≤ n) (hn : n ≤ l.length) :
    checkTail t l n = true ↔ (l.drop (tailOff t n)).take t.tail.length = t.tail := by
  rw [checkTail, memRead_eq_some (by unfold tailOff; omega), Bool.or_eq_true, List.isEmpty_iff, beq_iff_eq,
    Option.some.injEq]
  exact or_iff_right_of_imp fun hempty => by simp [hempty]

theorem ne_none_of_sum8_or_neg8 {fn : CkFn} (h : fn = .sum8 ∨ fn = .neg8) : fn ≠ .none := by
  rcases h with rfl | rfl <;> nofun

theorem ckW_of_ne_none {t : FrameType} (h : t.ckFn ≠ .none) : t.ckW = 1 := by
  unfold FrameType.ckW
  split
  · contradiction
  · rfl

theorem ckOff_of_ne_none {t : FrameType} (h : t.ckFn ≠ .none) (n : Nat) : ckOff t n = n - t.tail.length - 1 := by
  rw [ckOff, tailOff, ckW_of_ne_none h]

theorem checkSum_of_none {t : FrameType} (h : t.ckFn = .none) (l : List Byte) (n : Nat) : checkSum t l n = true := by
  simp [checkSum, h]

/-- With the span and the checksum byte inside the buffer, the check compares the function of the one with the other. -/
theorem checkSum_eq_true {t : FrameType} {l : List Byte} {n : Nat} (hfn : t.ckFn ≠ .none)
    (hstart : t.ckStart ≤ ckOff t n) (hck : ckOff t n < l.length) :
    checkSum t l n = true ↔
      ckValue t.ckFn ((l.drop t.ckStart).take (ckOff t n - t.ckStart)) = l[ckOff t n]? := by
  have hspan := memRead_eq_some (l := l) (off := t.ckStart) (n := ckOff t n - t.ckStart) (by omega)
  have hbyte : memRead l (ckOff t n) 1 = some [l[ckOff t n]] := memRead_one_of_getElem? (List.getElem?_eq_getElem hck)
  rw [List.getElem?_eq_getElem hck]
  cases hf : t.ckFn with
  | none => contradiction
  | sum8 => simp [checkSum, hf, hspan, hbyte, ckValue]
  | neg8 => simp [checkSum, hf, hspan, hbyte, ckValue]
  | custom k => simp [checkSum, hf, hspan, hbyte, ckValue]

/-- A frame that is long enough has its span and its checksum byte before the tail (R10 item (g), R186). -/
theorem ckOff_bounds {t : FrameType} {bm : List (List Nat)} {n : Nat} (ok : t.ok bm = true) (hfn : t.ckFn ≠ .none)
    (hmin : t.minTotal ≤ n) : t.ckStart ≤ ckOff t n ∧ ckOff t n + t.tail.length < n := by
  obtain ⟨_, _, _, _, _, hstart⟩ := FrameType.ok_bounds ok
  have hoff := ckOff_of_ne_none hfn n
  have hw := ckW_of_ne_none hfn
  unfold FrameType.minTotal at hmin
  omega

/-! ## The first cause that applies (R190) -/

theorem rejectCause_of_ftype_eq_none {p : Profile} {l : List Byte} (h : ftype p l = none) :
    rejectCause p l = some .noType := by
  simp [rejectCause, h]

theorem rejectCause_of_total {p : Profile} {l : List Byte} {i n : Nat} {t : FrameType}
    (ht : ftype p l = some (i, t)) (hn : totalOf t l = some n) :
    rejectCause p l = if withinCap p.bufCap n then frameCause t l n else some .oversize := by
  cases hw : withinCap p.bufCap n <;> simp [rejectCause, ht, hn, hw]

theorem frameCause_eq_none {t : FrameType} {l : List Byte} {n : Nat} : frameCause t l n = none ↔
    checkHeader t l = true ∧ checkLength t n = true ∧ checkTail t l n = true ∧ checkSum t l n = true := by
  unfold frameCause
  grind

theorem frameCause_eq_checksum {t : FrameType} {l : List Byte} {n : Nat} (hh : checkHeader t l = true)
    (hl : checkLength t n = true) (ht : checkTail t l n = true) (hs : checkSum t l n = false) :
    frameCause t l n = some .checksum := by
  simp [frameCause, hh, hl, ht, hs]

/-- The checks in their order, each read off the bytes of a frame that is whole in the buffer. -/
theorem frameCause_eq_ite {t : FrameType} {bm : List (List Nat)} {l : List Byte} {n : Nat} (ok : t.ok bm = true)
    (hle : n ≤ l.length) : frameCause t l n =
      if l.take t.hdr.length ≠ t.hdr then some .header
      else if n < t.minTotal then some .length
      else if (l.drop (n - t.tail.length)).take t.tail.length ≠ t.tail then some .trailer
      else if t.ckFn ≠ .none ∧
          ckValue t.ckFn ((l.drop t.ckStart).take (n - t.tail.length - 1 - t.ckStart)) ≠
            l[n - t.tail.length - 1]? then some .checksum
      else none := by
  simp only [frameCause, Bool.not_eq_true', ← Bool.not_eq_true]
  refine ite_congr (by rw [checkHeader_eq_true]) (fun _ => rfl) fun _ => ?_
  refine ite_congr (by rw [checkLength_eq_true, Nat.not_le]) (fun _ => rfl) fun hmin => ?_
  have hmin : t.minTotal ≤ n := Nat.le_of_not_lt hmin
  have htail : t.tail.length ≤ n := by unfold FrameType.minTotal at hmin; omega
  refine ite_congr (by rw [checkTail_eq_true htail hle, tailOff]) (fun _ => rfl) fun _ => ?_
  refine ite_congr (propext ?_) (fun _ => rfl) fun _ => rfl
  by_cases hfn : t.ckFn = .none
  · simp [checkSum_of_none hfn, hfn]
  · obtain ⟨hstart, hbefore⟩ := ckOff_bounds ok hfn hmin
    rw [checkSum_eq_true hfn hstart (by omega), ckOff_of_ne_none hfn]
    simp [hfn]

/-! ## One flipped bit (R193) -/

theorem ftype_set {p : Profile} {l : List Byte} {i : Nat} (hi : 0 < i) (c : Byte) : ftype p (l.set i c) = ftype p l := by
  obtain ⟨j, rfl⟩ := Nat.exists_eq_succ_of_ne_zero hi.ne'
  cases l <;> rfl

/-- A guarded read does not see a write outside it. -/
theorem memRead_set_outside {l : List Byte} {off n i : Nat} (h : i < off ∨ off + n ≤ i) (c : Byte) :
    memRead (l.set i c) off n = memRead l off n := by
  have hsame : ((l.set i c).drop off).take n = (l.drop off).take n := by
    rw [List.drop_set]
    split
    · rfl
    · exact List.take_set_of_le (by omega)
  simp [memRead, hsame]

theorem totalOf_set {t : FrameType} {l : List Byte} {i : Nat} (hi : cmdOff t ≤ i) (c : Byte) :
    totalOf t (l.set i c) = totalOf t l := by
  cases hm : t.lenMode with
  | fixed n => simp [totalOf, hm]
  | field w e base =>
    have hfield : t.hdr.length + w ≤ i := by simpa [cmdOff, FrameType.lfW, hm] using hi
    simp [totalOf, lengthField, hm, memRead_set_outside (.inr hfield)]

theorem checkHeader_set {t : FrameType} {l : List Byte} {i : Nat} (hi : t.hdr.length ≤ i) (c : Byte) :
    checkHeader t (l.set i c) = checkHeader t l := by
  rw [checkHeader, checkHeader, memRead_set_outside (.inr (by omega))]

theorem checkTail_set {t : FrameType} {l : List Byte} {i n : Nat} (hi : i < tailOff t n) (c : Byte) :
    checkTail t (l.set i c) n = checkTail t l n := by
  rw [checkTail, checkTail, memRead_set_outside (.inl hi)]

theorem sum8_flip_ne {l : List Byte} {i k : Nat} {b : Byte} (h : l[i]? = some b) (hk : k < 8) :
    sum8 (l.set i (b ^^^ (1#8 <<< k))) ≠ sum8 l := by
  rw [← sub_ne_zero, sum8_set_sub h, sub_ne_zero]
  exact xor_bit_ne hk b

theorem neg8_flip_ne {l : List Byte} {i k : Nat} {b : Byte} (h : l[i]? = some b) (hk : k < 8) :
    neg8 (l.set i (b ^^^ (1#8 <<< k))) ≠ neg8 l := by
  rw [neg8_eq_neg_sum8, neg8_eq_neg_sum8]
  exact neg_injective.ne (sum8_flip_ne h hk)

theorem ckValue_flip_ne {fn : CkFn} (hfn : fn = .sum8 ∨ fn = .neg8) {l : List Byte} {i k : Nat} {b : Byte}
    (h : l[i]? = some b) (hk : k < 8) : ckValue fn (l.set i (b ^^^ (1#8 <<< k))) ≠ ckValue fn l := by
  rcases hfn with rfl | rfl
  · exact (Option.some_injective _).ne (sum8_flip_ne h hk)
  · exact (Option.some_injective _).ne (neg8_flip_ne h hk)

/-- A flip in the span changes the value and not the checksum byte, a flip in the checksum byte changes that byte and not
the value; so a check that held fails. -/
theorem checkSum_flip {t : FrameType} {l : List Byte} {n i k : Nat} {b : Byte}
    (hfn : t.ckFn = .sum8 ∨ t.ckFn = .neg8) (hck : ckOff t n < l.length) (hs : checkSum t l n = true)
    (hlo : t.ckStart ≤ i) (hhi : i ≤ ckOff t n) (hb : l[i]? = some b) (hk : k < 8) :
    checkSum t (l.set i (b ^^^ (1#8 <<< k))) n = false := by
  have hne : t.ckFn ≠ .none := ne_none_of_sum8_or_neg8 hfn
  rw [checkSum_eq_true hne (hlo.trans hhi) hck] at hs
  rw [Bool.eq_false_iff, ne_eq, checkSum_eq_true hne (hlo.trans hhi) (by rwa [List.length_set]),
    List.drop_set, if_neg (Nat.not_lt.mpr hlo)]
  rcases hhi.lt_or_eq with hlt | rfl
  case inl =>
    have hspan : ((l.drop t.ckStart).take (ckOff t n - t.ckStart))[i - t.ckStart]? = some b := by
      rw [List.getElem?_take_of_lt (by omega), List.getElem?_drop, Nat.add_sub_cancel' hlo, hb]
    rw [List.take_set, List.getElem?_set_ne hlt.ne, ← hs]
    exact ckValue_flip_ne hfn hspan hk
  case inr =>
    rw [List.take_set_of_le le_rfl, hs, hb, List.getElem?_set_self hck]
    exact fun h => xor_bit_ne hk b (Option.some.inj h).symm

theorem front_eq_some {s : State} {f : Front} (h : s.front = some f) :
    ftype s.prof s.buf = some (f.t, f.ty) ∧ totalOf f.ty s.buf = some f.total := by
  simp only [State.front, Option.bind_eq_some_iff, Option.map_eq_some_iff] at h
  obtain ⟨⟨i, t⟩, ht, n, hn, rfl⟩ := h
  exact ⟨ht, hn⟩

/-- A valid frame fits, is whole in the buffer, and passes every check (R165, R191). -/
theorem valid_front {s : State} {f : Front} (hv : s.valid = true) (hf : s.front = some f) :
    withinCap s.prof.bufCap f.total = true ∧ f.total ≤ s.buf.length ∧ frameCause f.ty s.buf f.total = none := by
  obtain ⟨ht, hn⟩ := front_eq_some hf
  obtain ⟨hr, hc⟩ := valid_eq_true.mp hv
  rw [rejectCause_of_total ht hn] at hc
  obtain ⟨_, hr⟩ := ready_eq_true.mp hr
  obtain ⟨m, hm, hor⟩ := (readyBuf_of_ftype ht).mp hr
  obtain rfl : m = f.total := Option.some.inj (hm.symm.trans hn)
  split at hc
  · rename_i hcap
    exact ⟨hcap, hor.resolve_left (by simp [hcap]), hc⟩
  · cases hc

/-- A valid frame with one bit flipped behind its length field, in what the checksum covers or is, is ready still, and the
first cause that applies is CHECKSUM. -/
theorem cause_of_flip {s : State} {f : Front} {i k : Nat} {b : Byte} (hv : s.valid = true) (hf : s.front = some f)
    (hfn : f.ty.ckFn = .sum8 ∨ f.ty.ckFn = .neg8) (hcmd : cmdOff f.ty ≤ i) (hlo : f.ty.ckStart ≤ i)
    (hhi : i ≤ ckOff f.ty f.total) (hb : s.buf[i]? = some b) (hk : k < 8) :
    readyBuf s.prof (s.buf.set i (b ^^^ (1#8 <<< k))) = true ∧
      rejectCause s.prof (s.buf.set i (b ^^^ (1#8 <<< k))) = some .checksum := by
  obtain ⟨ht, hn⟩ := front_eq_some hf
  obtain ⟨hcap, hle, hc⟩ := valid_front hv hf
  obtain ⟨hhdr, hlen, htail, hsum⟩ := frameCause_eq_none.mp hc
  have ok := Admitted.type_ok s.profile (ftype_mem ht)
  have hpos := (FrameType.ok_bounds ok).1
  have hne : f.ty.ckFn ≠ .none := ne_none_of_sum8_or_neg8 hfn
  obtain ⟨_, hbefore⟩ := ckOff_bounds ok hne (checkLength_eq_true.mp hlen)
  have hhdrOff : f.ty.hdr.length ≤ i := (Nat.le_add_right _ _).trans hcmd
  have htailOff : i < tailOff f.ty f.total := by unfold tailOff; omega
  have ht' := (ftype_set (p := s.prof) (l := s.buf) (by omega : 0 < i) (b ^^^ (1#8 <<< k))).trans ht
  have hn' := (totalOf_set (l := s.buf) hcmd (b ^^^ (1#8 <<< k))).trans hn
  constructor
  · exact (readyBuf_of_ftype ht').mpr ⟨f.total, hn', .inr (by rwa [List.length_set])⟩
  · rw [rejectCause_of_total ht' hn', if_pos hcap]
    exact frameCause_eq_checksum ((checkHeader_set hhdrOff _).trans hhdr) hlen ((checkTail_set htailOff _).trans htail)
      (checkSum_flip hfn (by omega) hsum hlo hhi hb hk)

/-! ## REJECT (R196) -/

/-- A ready state with a cause selects REJECT (R101, R191). -/
theorem select_eq_reject_of_cause {s : State} {c : Cause} (hfail : s.failed = false) (hr : s.ready = true)
    (hc : rejectCause s.prof s.buf = some c) : s.select = .reject := by
  simp [select_eq_selectByPriority, State.selectByPriority, hfail, hr, State.valid, hc]

/-! ## The obligations -/

/-- Settles O18: each law of SUM8 from its being the sum of the bytes as words, and of NEG8 from its being the negative. -/
theorem checksumLaws : Obligations.ChecksumLaws := by
  refine ⟨fun l => ?reduce, fun l => ?cancel, fun l i k b hb hk => ?flip, fun l l' h => ?perm, ?two⟩
  case reduce => rw [sum8_eq_sum, List.sum_eq_foldl]
  case cancel =>
    rw [neg8_eq_neg_sum8, ← BitVec.toNat_add, add_neg_cancel]
    rfl
  case flip =>
    refine ⟨?_, sum8_flip_ne hb hk, neg8_flip_ne hb hk⟩
    rw [sum8_set_sub hb]
    exact xor_bit_sub hk
  case perm =>
    have hsum : sum8 l = sum8 l' := by rw [sum8_eq_sum, sum8_eq_sum, h.sum_eq]
    exact ⟨hsum, by rw [neg8_eq_neg_sum8, neg8_eq_neg_sum8, hsum]⟩
  case two => exact ⟨[0x00, 0x01], 0, 1, 0, 0x00, 0x01, by decide⟩

/-- Settles O20: past NOTYPE and OVERSIZE, each check in turn is its equation between bytes. -/
theorem rejectCauseIsTheFirstThatApplies : Obligations.RejectCauseIsTheFirstThatApplies := by
  intro a l
  refine ⟨rejectCause_of_ftype_eq_none, fun i t n ht hn => ⟨fun hcap => ?oversize, fun hcap hle => ?checks⟩⟩
  case oversize => rw [rejectCause_of_total ht hn, hcap]; rfl
  case checks =>
    rw [rejectCause_of_total ht hn, if_pos hcap, frameCause_eq_ite (Admitted.type_ok a (ftype_mem ht)) hle]

/-- Settles O22: the flipped frame is rejected as any other with that cause. -/
theorem singleBitFlipIsRejected : Obligations.SingleBitFlipIsRejected := by
  intro s f i k b hfail hv hf hfn hcmd hlo hhi hb hk s'
  obtain ⟨hready, hcause⟩ := cause_of_flip hv hf hfn hcmd hlo hhi hb hk
  obtain ⟨hr, _⟩ := valid_eq_true.mp hv
  obtain ⟨hhf, _⟩ := ready_eq_true.mp hr
  have hcause' : rejectCause s'.prof s'.buf = some .checksum := by simpa [s'] using hcause
  have hready' : s'.ready = true := ready_eq_true.mpr ⟨hhf, by simpa [s'] using hready⟩
  exact exec_toInstr_of_select (select_eq_reject_of_cause (s := s') hfail hready' hcause')
    (perform_reject_of_cause hcause')

/-- Settles O19. -/
theorem checksumRowsGiveTheirValue : Obligations.ChecksumRowsGiveTheirValue := by
  intro s l n
  rw [← sum8_eq_ofNat, ← neg8_eq_neg_sum8]
  exact ⟨rfl, rfl, rfl, rfl⟩

/-- Settles O21: such a state selects REJECT. -/
theorem rejectClearsTheBuffer : Obligations.RejectClearsTheBuffer := by
  intro s c hfail hr hc
  exact exec_toInstr_of_select (select_eq_reject_of_cause hfail hr hc) (perform_reject_of_cause hc)

end Sys2Proof.Machine
end

section
/-! PROOF. The family 44_dispatcher: a valid frame taken apart (R84, R91, R211), what each handler item run by itself emits
(R214, R217, R224 to R228), that a handler is its items run one after another (R214), and DISPATCH and UNKNOWN from what
the pipeline performs on a valid frame (R220 to R222). -/

namespace Sys2Proof.Machine

open Sys2Proof.Config (Profile FrameType Sink recItemOk itemOk)

/-! ## A valid frame taken apart (R84, R91, R211) -/

theorem front_fields {s : State} {f : Front} (h : s.front = some f) :
    f.cmd = cmdOf f.ty s.buf ∧ f.payload = payloadOf f.ty s.buf f.total := by
  simp only [State.front, Option.bind_eq_some_iff, Option.map_eq_some_iff] at h
  obtain ⟨⟨i, t⟩, _, n, _, rfl⟩ := h
  exact ⟨rfl, rfl⟩

theorem front_type_ok {s : State} {f : Front} (h : s.front = some f) : f.ty.ok s.prof.bitmaps = true :=
  Admitted.type_ok s.profile (ftype_mem (front_eq_some h).1)

/-- A valid frame has passed check 1b (R186). -/
theorem minTotal_le_of_valid {s : State} {f : Front} (hv : s.valid = true) (hf : s.front = some f) :
    f.ty.minTotal ≤ f.total := by
  obtain ⟨_, _, hcause⟩ := valid_front hv hf
  obtain ⟨_, hlength, _⟩ := frameCause_eq_none.mp hcause
  exact checkLength_eq_true.mp hlength

/-- The payload is what is left of the total beside the other parts of the frame (R11, R84). -/
theorem payLen_eq (t : FrameType) (n : Nat) : payLen t n = n - t.minTotal := by
  unfold payLen ckOff tailOff payOff cmdOff FrameType.minTotal
  omega

/-- With the frame whole in the buffer, the payload's guarded read succeeds. -/
theorem memRead_payload {t : FrameType} {l : List Byte} {n : Nat} (hmin : t.minTotal ≤ n) (hn : n ≤ l.length) :
    memRead l (payOff t) (payLen t n) = some ((l.drop (payOff t)).take (n - t.minTotal)) := by
  rw [payLen_eq, memRead_eq_some]
  unfold FrameType.minTotal at *
  unfold payOff cmdOff
  omega

theorem payloadOf_eq {t : FrameType} {l : List Byte} {n : Nat} (hmin : t.minTotal ≤ n) (hn : n ≤ l.length) :
    payloadOf t l n = (l.drop (payOff t)).take (n - t.minTotal) := by
  rw [payloadOf, memRead_payload hmin hn, Option.getD_some]

theorem length_payloadOf {t : FrameType} {l : List Byte} {n : Nat} (hmin : t.minTotal ≤ n) (hn : n ≤ l.length) :
    (payloadOf t l n).length = n - t.minTotal := by
  rw [payloadOf, memRead_payload hmin hn, Option.getD_some, length_of_memRead (memRead_payload hmin hn), payLen_eq]

theorem cmdOf_of_cmdW_eq_zero {t : FrameType} (h : t.cmdW = 0) (l : List Byte) : cmdOf t l = none := if_pos h

theorem cmdOf_of_cmdW_ne_zero {t : FrameType} {l : List Byte} (h : t.cmdW ≠ 0) (hl : t.minTotal ≤ l.length) :
    cmdOf t l = some (uint t.cmdEnd ((l.drop (cmdOff t)).take t.cmdW)) := by
  have hguard : cmdOff t + t.cmdW ≤ l.length := by
    unfold FrameType.minTotal at hl
    unfold cmdOff
    omega
  rw [cmdOf, if_neg h, memRead_eq_some hguard, Option.map_some]

/-! ## Handler selection and its two micro-operations (R104, R212, R220, R221) -/

/-- The row with the frame's command as its key is the handler: the keys of an admitted table differ (R104). -/
theorem handlerOf_of_mem {s : State} {f : Front} {items : List Item} (hf : s.front = some f)
    (h : (f.cmd, items) ∈ f.ty.handlers) : handlerOf f.ty f.cmd = some items :=
  lookup_of_mem (FrameType.keys_nodup (front_type_ok hf)) h

theorem frameEvents_of_handler {prof : Profile} {f : Front} {items : List Item} (h : handlerOf f.ty f.cmd = some items) :
    frameEvents prof f = .frame f.t f.cmd f.payload :: handlerEvents prof f.payload items := by
  simp [frameEvents, h]

theorem frameEvents_of_no_handler {prof : Profile} {f : Front} (h : handlerOf f.ty f.cmd = none) :
    frameEvents prof f = [.frame f.t f.cmd f.payload, .logUnknown f.t f.cmd] := by
  simp [frameEvents, h]

/-- On a valid frame the one of DISPATCH and UNKNOWN that the handler table calls for answers the frame's events and the
erase (R213, R222). -/
theorem exec_of_valid {s : State} {f : Front} {op : MicroOp} (hfail : s.failed = false) (hv : s.valid = true)
    (hf : s.front = some f) (hop : (if (handlerOf f.ty f.cmd).isSome then .dispatch else .unknown) = op) :
    exec op.toInstr s =
      .next { s with trace := s.trace ++ frameEvents s.prof f, mem := memoryOf (s.buf.drop f.total),
                     hf := decide (f.total < s.len), warn := false } := by
  have hsel : s.select = op := by rw [select_of_valid hfail hv, known_of_valid hv hf, hop]
  exact exec_toInstr_of_select hsel (hsel ▸ perform_of_valid hfail hv hf)

/-! ## FIELD and BITFIELD (R214, R217, R227, R228) -/

theorem fieldEvents_of_short {p : List Byte} {off : Nat} {kind : Kind} (h : readKind kind p off = none) (prof : Profile)
    (s : Sink) (k : Option Nat) : fieldEvents prof p s off kind k = [.warn (.short (.sink s))] := by
  simp [fieldEvents, h]

theorem fieldEvents_of_read {p : List Byte} {off : Nat} {kind : Kind} {v : Int} (h : readKind kind p off = some v)
    (prof : Profile) (s : Sink) (k : Option Nat) :
    fieldEvents prof p s off kind k = if sinkPresent prof s then [.publish s (scaled k v)] else [] := by
  simp [fieldEvents, h, publish]

/-- The bits `hi:lo` of a byte as a number are the bit vector cut out of it (R12). -/
theorem bitRange_eq_extractLsb' (b : Byte) (hi lo : Nat) : bitRange b hi lo = (b.extractLsb' lo (hi - lo + 1)).toNat := by
  rw [bitRange, BitVec.extractLsb'_toNat, Nat.shiftRight_eq_div_pow]

theorem bitmapEntry_bitRange (prof : Profile) (b : Byte) (hi lo m : Nat) : bitmapEntry prof m (bitRange b hi lo) =
    (prof.bitmaps[m]?).bind fun table => table[(b.extractLsb' lo (hi - lo + 1)).toNat]? := by
  rw [bitmapEntry, bitRange_eq_extractLsb']

theorem bitfieldEvents_of_short {p : List Byte} {off : Nat} (h : p.length ≤ off) (prof : Profile) (s : Sink)
    (hi lo m : Nat) : bitfieldEvents prof p s off hi lo m = [.warn (.short (.sink s))] := by
  simp [bitfieldEvents, List.getElem?_eq_none h]

theorem bitfieldEvents_of_entry {prof : Profile} {p : List Byte} {off hi lo m e : Nat} {b : Byte} (hb : p[off]? = some b)
    (he : bitmapEntry prof m (bitRange b hi lo) = some e) (s : Sink) :
    bitfieldEvents prof p s off hi lo m = if sinkPresent prof s then [.publish s (.enum e)] else [] := by
  simp [bitfieldEvents, hb, he, publish]

theorem bitfieldEvents_of_no_entry {prof : Profile} {p : List Byte} {off hi lo m : Nat} {b : Byte} (hb : p[off]? = some b)
    (he : bitmapEntry prof m (bitRange b hi lo) = none) (s : Sink) : bitfieldEvents prof p s off hi lo m = [] := by
  simp [bitfieldEvents, hb, he]

theorem recItemOk_bitfield {bitmaps : List (List Nat)} {sink off hi lo m : Nat} :
    recItemOk bitmaps (.bitfield sink off hi lo m) = true ↔
      hi ≤ 7 ∧ lo ≤ hi ∧ (bitmaps[m]?).map List.length = some (2 ^ (hi - lo + 1)) := by
  simp only [recItemOk, Bool.and_eq_true, decide_eq_true_eq, beq_iff_eq, and_assoc]

/-! ## TARGETS (R224 to R226) -/

/-- The events of record `i` of a TARGETS region. -/
def oneRecordEvents (prof : Profile) (items : List RecItem) (p : List Byte) (off i : Nat) : List Event :=
  items.flatMap (recItemEvents prof ((p.drop (off + 2 + i * prof.recSz)).take prof.recSz) (some i))

theorem recordEvents_eq_flatMap (prof : Profile) (items : List RecItem) (p : List Byte) (off i n : Nat) :
    recordEvents prof items p off i n = (List.range' i n).flatMap (oneRecordEvents prof items p off) := by
  induction n generalizing i with
  | zero => rfl
  | succ n ih => rw [recordEvents, ih, List.range'_succ, List.flatMap_cons]; rfl

theorem targetsEvents_of_short {p : List Byte} {off : Nat} (h : p.length < off + 2) (prof : Profile)
    (items : List RecItem) : targetsEvents prof p off items = [.warn (.short .targets)] := if_pos h

theorem targetsEvents_of_count {prof : Profile} {p : List Byte} {off n : Nat} {count : Byte} (h : off + 2 ≤ p.length)
    (hc : p[off]? = some count)
    (hn : n = min count.toNat (min prof.maxTargets ((p.length - off - 2) / prof.recSz))) (items : List RecItem) :
    targetsEvents prof p off items = (if n < count.toNat then [.warn (.trunc count.toNat n)] else []) ++
      (List.range n).flatMap (oneRecordEvents prof items p off) := by
  rw [targetsEvents, if_neg (Nat.not_lt.mpr h), hc, List.range_eq_range', ← recordEvents_eq_flatMap, hn]
  rfl

/-! ## The items run by themselves (R214) -/

theorem exec_field (s : State) (p : List Byte) (sink off : Nat) (kind : Kind) (k : Option Nat) :
    exec (.field p sink off kind k) s =
      .next (s.emitAll (fieldEvents s.prof p { id := sink, target := none } off kind k)) := rfl

theorem exec_bitfield_of_ok {s : State} {sink off hi lo m : Nat}
    (h : recItemOk s.prof.bitmaps (.bitfield sink off hi lo m) = true) (p : List Byte) :
    exec (.bitfield p sink off hi lo m) s =
      .next (s.emitAll (bitfieldEvents s.prof p { id := sink, target := none } off hi lo m)) := if_pos h

theorem exec_bitfield_of_not_ok {s : State} {sink off hi lo m : Nat}
    (h : ¬ recItemOk s.prof.bitmaps (.bitfield sink off hi lo m) = true) (p : List Byte) :
    exec (.bitfield p sink off hi lo m) s = .refused .itemNotAdmitted := if_neg h

theorem exec_targets_of_ok {s : State} {items : List RecItem} (h : items.all (recItemOk s.prof.bitmaps) = true)
    (p : List Byte) (off : Nat) :
    exec (.targets p off items) s = .next (s.emitAll (targetsEvents s.prof p off items)) := if_pos h

theorem exec_targets_of_not_ok {s : State} {items : List RecItem} (h : ¬ items.all (recItemOk s.prof.bitmaps) = true)
    (p : List Byte) (off : Nat) : exec (.targets p off items) s = .refused .itemNotAdmitted := if_neg h

theorem exec_log (s : State) (tag : Tag) : exec (.log tag) s = .next (s.emitAll [.logInfo tag]) := rfl

/-- An item a profile may hold emits, run by itself, what it emits in a handler. -/
theorem exec_itemInstr {s : State} {i : Item} (h : itemOk s.prof.bitmaps i = true) (p : List Byte) :
    exec (itemInstr p i) s = .next (s.emitAll (itemEvents s.prof p i)) := by
  cases i with
  | single r =>
    cases r with
    | field sink off kind k => exact exec_field s p sink off kind k
    | bitfield sink off hi lo m => exact exec_bitfield_of_ok h p
  | targets off items => exact exec_targets_of_ok h p off
  | log tag => exact exec_log s tag

/-- A handler is its items one after another: each emits behind what the ones before it emitted, and no item writes what
a later one reads. -/
theorem execAll_itemInstr {s : State} {items : List Item} (h : items.all (itemOk s.prof.bitmaps) = true)
    (p : List Byte) :
    execAll (items.map (itemInstr p)) s = .next (s.emitAll (handlerEvents s.prof p items)) := by
  induction items generalizing s with
  | nil => simp [handlerEvents, State.emitAll]
  | cons i items ih =>
    rw [List.all_cons, Bool.and_eq_true] at h
    obtain ⟨hi, hitems⟩ := h
    rw [List.map_cons, execAll_cons_next (exec_itemInstr hi p), ih (s := s.emitAll _) hitems]
    simp [handlerEvents, State.emitAll, State.prof]

/-! ## The instruction of an extractor kind (R105) -/

theorem decodeTableWord_kind_code (k : Kind) : decodeTableWord 4 k.code = some (kindInstr k [] 0) := by
  cases k <;> decide

theorem exec_kindInstr (s : State) (k : Kind) (p : List Byte) (off : Nat) :
    exec (kindInstr k p off) s = .next (s.showInt (readKind k p off)) := by
  cases k <;> rfl

/-! ## The obligations -/

/-- Settles O23: a valid frame is at least as long as its parts and whole in the buffer, so both guarded reads succeed. -/
theorem validFrameHasItsFields : Obligations.ValidFrameHasItsFields := by
  intro s hv
  obtain ⟨f, hf, htotal, hle⟩ := front_of_valid hv
  obtain ⟨hcmd, hpayload⟩ := front_fields hf
  have hmin := minTotal_le_of_valid hv hf
  refine ⟨f, hf, (front_eq_some hf).1, htotal, hle, hmin, ?_, ?_, fun h0 => ?_, fun h0 => ?_⟩
  · rw [hpayload]; exact payloadOf_eq hmin hle
  · rw [hpayload]; exact length_payloadOf hmin hle
  · rw [hcmd]; exact cmdOf_of_cmdW_eq_zero h0 _
  · rw [hcmd]; exact cmdOf_of_cmdW_ne_zero h0 (hmin.trans hle)

/-- Settles O24: the row found is the handler, and running its items on the state that has emitted Frame gives the trace
that DISPATCH writes. -/
theorem dispatchRunsHandlerAndErases : Obligations.DispatchRunsHandlerAndErases := by
  intro s f items hfail hv hf hmem
  have hh : handlerOf f.ty f.cmd = some items := handlerOf_of_mem hf hmem
  have hexec := exec_of_valid (op := .dispatch) hfail hv hf (by rw [hh]; rfl)
  rw [frameEvents_of_handler hh] at hexec
  have hitems : items.all (itemOk s.prof.bitmaps) = true := FrameType.items_ok (front_type_ok hf) hmem
  refine ⟨hh, hexec, _, execAll_itemInstr (s := s.emit _) hitems f.payload, ?_⟩
  rw [State.emitAll, State.emit, List.append_assoc, List.singleton_append]
  exact hexec

/-- Settles O25: without a row there is no handler, and the state selects UNKNOWN. -/
theorem unknownLogsAndErases : Obligations.UnknownLogsAndErases := by
  intro s f hfail hv hf hnone
  have hh : handlerOf f.ty f.cmd = none := lookup_of_not_mem hnone
  have hexec := exec_of_valid (op := .unknown) hfail hv hf (by rw [hh]; rfl)
  rw [frameEvents_of_no_handler hh] at hexec
  exact ⟨hh, hexec⟩

/-- Settles O27: the bits are fewer than the table's entries, so the entry is there. -/
theorem bitfieldPublishesTableEntry : Obligations.BitfieldPublishesTableEntry := by
  intro s p sink off hi lo m
  refine ⟨fun table htable hhi hlo hlength => ?allowed, fun hbad => ?refused⟩
  case allowed =>
    have hok : recItemOk s.prof.bitmaps (.bitfield sink off hi lo m) = true :=
      recItemOk_bitfield.mpr ⟨hhi, hlo, by rw [htable, Option.map_some, hlength]⟩
    rw [exec_bitfield_of_ok hok p]
    refine ⟨fun hshort => by rw [bitfieldEvents_of_short hshort]; rfl, fun b hb => ?_⟩
    have hlt : (b.extractLsb' lo (hi - lo + 1)).toNat < table.length := hlength ▸ BitVec.isLt _
    have hentry := List.getElem?_eq_getElem hlt
    have he : bitmapEntry s.prof m (bitRange b hi lo) = some table[(b.extractLsb' lo (hi - lo + 1)).toNat] := by
      rw [bitmapEntry_bitRange, htable, Option.bind_some, hentry]
    exact ⟨_, hentry, by rw [bitfieldEvents_of_entry hb he]; rfl⟩
  case refused =>
    refine exec_bitfield_of_not_ok (fun hok => ?_) p
    obtain ⟨hhi, hlo, hlength⟩ := recItemOk_bitfield.mp hok
    rcases hbad with h | h | h
    · omega
    · omega
    · exact h hlength

/-- Settles O28: the records of a region are those below the bound in order, and a record's items read that record alone. -/
theorem targetsReadsBoundedRecords : Obligations.TargetsReadsBoundedRecords := by
  intro s p off items
  refine ⟨fun hok => ⟨fun hshort => ?short, fun count hlong hcount => ?records⟩, fun hbad => ?refused,
    fun rec i sink o => ⟨fun kind sc => ?field, fun hi lo m => ?bitfield⟩⟩
  case short => rw [exec_targets_of_ok hok, targetsEvents_of_short hshort]; rfl
  case records => rw [exec_targets_of_ok hok, targetsEvents_of_count hlong hcount rfl]; rfl
  case refused => exact exec_targets_of_not_ok (by simp [hbad]) p off
  case field =>
    cases h : readKind kind rec o with
    | none => exact fieldEvents_of_short h _ _ _
    | some v => cases sc <;> exact fieldEvents_of_read h _ _ _
  case bitfield =>
    cases hb : rec[o]? with
    | none => exact bitfieldEvents_of_short (List.getElem?_eq_none_iff.mp hb) _ _ _ _ _
    | some b =>
      dsimp only
      rw [← bitmapEntry_bitRange]
      cases he : bitmapEntry s.prof m (bitRange b hi lo) with
      | none => exact bitfieldEvents_of_no_entry hb he _
      | some e => exact bitfieldEvents_of_entry hb he _

/-- Settles O26: the three outcomes of a FIELD, and the instruction of its kind shows the value it reads. -/
theorem fieldPublishesOrWarnsShort : Obligations.FieldPublishesOrWarnsShort := by
  intro s p sink off k kind
  refine ⟨fun hnone sc => ?short, fun v hv hpresent => ?present, fun v hv habsent sc => ?absent,
    decodeTableWord_kind_code kind, exec_kindInstr s kind p off⟩
  case short => rw [exec_field, fieldEvents_of_short hnone]; rfl
  case present => constructor <;> (rw [exec_field, fieldEvents_of_read hv, if_pos hpresent]; rfl)
  case absent => rw [exec_field, fieldEvents_of_read hv, if_neg (by simp [habsent])]; simp [State.emitAll]

/-- Settles O29: each row's handler is one LOG item. -/
theorem logAndFactoryResetEmitTheirTag : Obligations.LogAndFactoryResetEmitTheirTag :=
  fun s tag => ⟨exec_log s tag, rfl⟩

end Sys2Proof.Machine
end

section
/-! PROOF. The family 45_field_extractor: the ten reads as one guarded read of a kind's width, in its byte order,
unsigned or signed (R105, R241), the value of the bytes read (R242 to R251), and that a read past the end gives none
(R241). -/

namespace Sys2Proof.Machine

/-! ## The parts of a kind (R105) -/

/-- The bytes a kind reads (R105, R241). -/
def kindWidth : Kind → Nat
  | .u8 | .i8 => 1
  | .u16le | .u16be | .i16le | .i16be => 2
  | .u32le | .u32be | .i32le | .i32be => 4

/-- The byte order of a kind; little-endian for one byte (R105). -/
def kindEnd : Kind → Endian
  | .u8 | .i8 | .u16le | .i16le | .u32le | .i32le => .le
  | .u16be | .i16be | .u32be | .i32be => .be

/-- Whether a kind is signed (R105). -/
def kindSigned : Kind → Bool
  | .u8 | .u16le | .u16be | .u32le | .u32be => false
  | .i8 | .i16le | .i16be | .i32le | .i32be => true

/-- The value of the bytes a kind has read (R242). -/
def kindValue (k : Kind) (l : List Byte) : Int :=
  if kindSigned k then sext (8 * kindWidth k) (uint (kindEnd k) l) else uint (kindEnd k) l

/-- Every extractor operation is a guarded read of its width and the value of what it read. -/
theorem readKind_eq (k : Kind) (p : List Byte) (off : Nat) :
    readKind k p off = (memRead p off (kindWidth k)).map (kindValue k) := by
  cases k <;> rfl

theorem kindValue_of_unsigned {k : Kind} (hk : kindSigned k = false) (l : List Byte) :
    kindValue k l = uint (kindEnd k) l := by
  simp [kindValue, hk]

/-- `sext` of a bit pattern is its two's complement reading (R14, R242). -/
theorem sext_toNat {w : Nat} (x : BitVec w) : sext w x.toNat = x.toInt := by
  cases w with
  | zero => simp [sext, BitVec.of_length_zero]
  | succ n =>
    rw [sext, BitVec.toInt_eq_toNat_cond, Nat.add_sub_cancel]
    have hhalf : x.toNat < 2 ^ n ↔ 2 * x.toNat < 2 ^ (n + 1) := by omega
    simp [hhalf]

theorem kindValue_of_signed {k : Kind} (hk : kindSigned k = true) {l : List Byte} {x : BitVec (8 * kindWidth k)}
    (hx : uint (kindEnd k) l = x.toNat) : kindValue k l = x.toInt := by
  rw [kindValue, if_pos hk, hx, sext_toNat]

/-! ## What a read answers (R241) -/

theorem exec_unsigned_read (s : State) (k : Kind) {p l : List Byte} {off : Nat} {v : Int} (hk : kindSigned k = false)
    (hl : memRead p off (kindWidth k) = some l) (hv : (uint (kindEnd k) l : Int) = v) :
    exec (kindInstr k p off) s = .next { s with result := .int v } := by
  rw [exec_kindInstr, readKind_eq, hl, Option.map_some, kindValue_of_unsigned hk, hv]
  rfl

theorem exec_signed_read (s : State) (k : Kind) {p l : List Byte} {off : Nat} {x : BitVec (8 * kindWidth k)}
    (hk : kindSigned k = true) (hl : memRead p off (kindWidth k) = some l) (hx : uint (kindEnd k) l = x.toNat) :
    exec (kindInstr k p off) s = .next { s with result := .int x.toInt } := by
  rw [exec_kindInstr, readKind_eq, hl, Option.map_some, kindValue_of_signed hk hx]
  rfl

theorem exec_short_read (s : State) (k : Kind) {p : List Byte} {off : Nat} (h : p.length < off + kindWidth k) :
    exec (kindInstr k p off) s = .next { s with result := .nothing } := by
  rw [exec_kindInstr, readKind_eq, memRead_eq_none h]
  rfl

/-! ## The bytes of a read and their value (R63) -/

theorem memRead_four_of_getElem? {l : List Byte} {off : Nat} {b0 b1 b2 b3 : Byte} (h0 : l[off]? = some b0)
    (h1 : l[off + 1]? = some b1) (h2 : l[off + 2]? = some b2) (h3 : l[off + 3]? = some b3) :
    memRead l off 4 = some [b0, b1, b2, b3] := by
  obtain ⟨hoff0, rfl⟩ := List.getElem?_eq_some_iff.mp h0
  obtain ⟨hoff1, rfl⟩ := List.getElem?_eq_some_iff.mp h1
  obtain ⟨hoff2, rfl⟩ := List.getElem?_eq_some_iff.mp h2
  obtain ⟨hoff3, rfl⟩ := List.getElem?_eq_some_iff.mp h3
  rw [memRead_eq_some (by omega), List.drop_eq_getElem_cons hoff0, List.drop_eq_getElem_cons hoff1,
    List.drop_eq_getElem_cons hoff2, List.drop_eq_getElem_cons hoff3]
  rfl

theorem uint_le_four (b0 b1 b2 b3 : Byte) :
    uint .le [b0, b1, b2, b3] = b0.toNat + 2 ^ 8 * b1.toNat + 2 ^ 16 * b2.toNat + 2 ^ 24 * b3.toNat := by
  simp only [uint, uintLE]
  omega

theorem uint_be_four (b0 b1 b2 b3 : Byte) :
    uint .be [b0, b1, b2, b3] = 2 ^ 24 * b0.toNat + 2 ^ 16 * b1.toNat + 2 ^ 8 * b2.toNat + b3.toNat := by
  simp only [uint, uintBE, List.length_cons, List.length_nil]
  omega

theorem toNat_append_byte {w : Nat} (x : BitVec w) (b : Byte) : (x ++ b).toNat = 256 * x.toNat + b.toNat := by
  rw [BitVec.toNat_append, ← Nat.shiftLeft_add_eq_or_of_lt b.isLt, Nat.shiftLeft_eq, Nat.mul_comm]

/-- A big-endian string grows by its least significant byte, and so does the bit pattern. -/
theorem uint_be_append_toNat {w : Nat} {l : List Byte} {x : BitVec w} (h : uint .be l = x.toNat) (b : Byte) :
    uint .be (l ++ [b]) = (x ++ b).toNat := by
  rw [toNat_append_byte, ← h]
  exact uintBE_append l b

theorem uint_be_pair_toNat (b0 b1 : Byte) : uint .be [b0, b1] = (b0 ++ b1).toNat :=
  uint_be_append_toNat (uint_singleton .be b0) b1

theorem uint_be_four_toNat (b0 b1 b2 b3 : Byte) : uint .be [b0, b1, b2, b3] = (b0 ++ b1 ++ b2 ++ b3).toNat :=
  uint_be_append_toNat (uint_be_append_toNat (uint_be_pair_toNat b0 b1) b2) b3

/-- A little-endian string has the value of the same bytes in the other order, read big-endian. -/
theorem uint_le_eq_uint_be_reverse (l : List Byte) : uint .le l = uint .be l.reverse := (uintBE_reverse l).symm

theorem uint_le_pair_toNat (b0 b1 : Byte) : uint .le [b0, b1] = (b1 ++ b0).toNat :=
  (uint_le_eq_uint_be_reverse _).trans (uint_be_pair_toNat b1 b0)

theorem uint_le_four_toNat (b0 b1 b2 b3 : Byte) : uint .le [b0, b1, b2, b3] = (b3 ++ b2 ++ b1 ++ b0).toNat :=
  (uint_le_eq_uint_be_reverse _).trans (uint_be_four_toNat b3 b2 b1 b0)

/-! ## The obligations -/

/-- Settles O31: the bytes read, joined in their order, are the bit pattern whose unsigned value `sext` takes. -/
theorem signedReadsGiveTheirValue : Obligations.SignedReadsGiveTheirValue := by
  intro s p off b0 b1 b2 b3
  refine ⟨fun h0 => ?one, fun h0 h1 => ?two, fun h0 h1 h2 h3 => ?four⟩
  case one => exact exec_signed_read s .i8 rfl (memRead_one_of_getElem? h0) (uint_singleton .le b0)
  case two =>
    have hl := memRead_two_of_getElem? h0 h1
    exact ⟨exec_signed_read s .i16le rfl hl (uint_le_pair_toNat b0 b1),
      exec_signed_read s .i16be rfl hl (uint_be_pair_toNat b0 b1)⟩
  case four =>
    have hl := memRead_four_of_getElem? h0 h1 h2 h3
    exact ⟨exec_signed_read s .i32le rfl hl (uint_le_four_toNat b0 b1 b2 b3),
      exec_signed_read s .i32be rfl hl (uint_be_four_toNat b0 b1 b2 b3)⟩

/-- Settles O30: the bytes read have the value of the rule in their kind's byte order. -/
theorem unsignedReadsGiveTheirValue : Obligations.UnsignedReadsGiveTheirValue := by
  intro s p off b0 b1 b2 b3
  refine ⟨fun h0 => ?one, fun h0 h1 => ?two, fun h0 h1 h2 h3 => ?four⟩
  case one =>
    exact exec_unsigned_read s .u8 rfl (memRead_one_of_getElem? h0) (congrArg _ (uint_singleton .le b0))
  case two =>
    have hl := memRead_two_of_getElem? h0 h1
    exact ⟨exec_unsigned_read s .u16le rfl hl (mod_cast uint_le_pair b0 b1),
      exec_unsigned_read s .u16be rfl hl (mod_cast uint_be_pair b0 b1)⟩
  case four =>
    have hl := memRead_four_of_getElem? h0 h1 h2 h3
    exact ⟨exec_unsigned_read s .u32le rfl hl (mod_cast uint_le_four b0 b1 b2 b3),
      exec_unsigned_read s .u32be rfl hl (mod_cast uint_be_four b0 b1 b2 b3)⟩

/-- Settles O32: below its width the guard of every kind fails. -/
theorem shortReadsGiveNothing : Obligations.ShortReadsGiveNothing := by
  intro s p off
  exact ⟨fun h => ⟨exec_short_read s .u8 h, exec_short_read s .i8 h⟩,
    fun h => ⟨exec_short_read s .u16le h, exec_short_read s .u16be h, exec_short_read s .i16le h,
      exec_short_read s .i16be h⟩,
    fun h => ⟨exec_short_read s .u32le h, exec_short_read s .u32be h, exec_short_read s .i32le h,
      exec_short_read s .i32be h⟩⟩

end Sys2Proof.Machine
end

section
/-! PROOF. The family 46_command_encoder, ENCODE and XMIT: where ENCODE is defined and the frame it builds (R271), the wire
layouts it builds for the shapes P1 to P3 (R85 to R87), and that the pipeline takes the frame apart again (R275). -/

namespace Sys2Proof.Machine

open Sys2Proof.Config (Profile FrameType Admitted withinCap p1Type p2Type p3Type)

/-! ## The fields ENCODE computes (R271) -/

/-- The command `c` fits the command field (R271). -/
def CmdFits (t : FrameType) : Option Nat → Prop
  | none => t.cmdW = 0
  | some v => t.cmdW ≠ 0 ∧ v < 2 ^ (8 * t.cmdW)

/-- A frame of `n` bytes fits the length rule (R271). -/
def TotalFits (t : FrameType) (n : Nat) : Prop :=
  match t.lenMode with
  | .fixed k => n = k
  | .field w _ base => base ≤ n ∧ n - base < 2 ^ (8 * w)

theorem cmdBytes_isSome {t : FrameType} {c : Option Nat} : (cmdBytes t c).isSome = true ↔ CmdFits t c := by
  cases c <;> simp [cmdBytes, CmdFits]

theorem lenBytes_isSome {t : FrameType} {n : Nat} : (lenBytes t n).isSome = true ↔ TotalFits t n := by
  cases hm : t.lenMode <;> simp [lenBytes, TotalFits, hm]

theorem length_of_cmdBytes {t : FrameType} {c : Option Nat} {cmdb : List Byte} (h : cmdBytes t c = some cmdb) :
    cmdb.length = t.cmdW := by
  cases c with
  | none =>
    simp only [cmdBytes, Option.ite_none_right_eq_some, Option.some.injEq] at h
    obtain ⟨hw, rfl⟩ := h
    exact hw.symm
  | some v =>
    simp only [cmdBytes, Option.ite_none_right_eq_some, Option.some.injEq] at h
    obtain ⟨_, rfl⟩ := h
    exact length_bytesOf _ _ _

theorem length_of_lenBytes {t : FrameType} {n : Nat} {lenb : List Byte} (h : lenBytes t n = some lenb) :
    lenb.length = t.lfW := by
  cases hm : t.lenMode with
  | fixed k =>
    simp only [lenBytes, hm, Option.ite_none_right_eq_some, Option.some.injEq] at h
    obtain ⟨_, rfl⟩ := h
    simp [FrameType.lfW, hm]
  | field w e base =>
    simp only [lenBytes, hm, Option.ite_none_right_eq_some, Option.some.injEq] at h
    obtain ⟨_, rfl⟩ := h
    simp [FrameType.lfW, hm]

/-! ## The frame ENCODE builds (R271) -/

/-- The bytes of a frame up to its checksum. -/
def bytesToCk (t : FrameType) (lenb cmdb p : List Byte) : List Byte := t.hdr ++ lenb ++ (cmdb ++ p)

/-- The fields of a frame joined in their order (R82, R271). -/
def joined (t : FrameType) (lenb cmdb p : List Byte) : List Byte :=
  bytesToCk t lenb cmdb p ++ ckField t (bytesToCk t lenb cmdb p) ++ t.tail

/-- ENCODE joins the fields, where the command and the length have a field. -/
theorem encodeType_eq (t : FrameType) (c : Option Nat) (p : List Byte) : encodeType t c p =
    (cmdBytes t c).bind fun cmdb => (lenBytes t (t.minTotal + p.length)).map fun lenb => joined t lenb cmdb p := by
  cases hc : cmdBytes t c with
  | none => simp [encodeType, hc]
  | some cmdb =>
    have hsize : t.hdr.length + t.lfW + (cmdb ++ p).length + t.ckW + t.tail.length = t.minTotal + p.length := by
      rw [List.length_append, length_of_cmdBytes hc, FrameType.minTotal]
      omega
    simp only [encodeType, hc, Option.bind_some, hsize]
    rfl

theorem encodeType_eq_some {t : FrameType} {c : Option Nat} {p f : List Byte} : encodeType t c p = some f ↔
    ∃ cmdb lenb, cmdBytes t c = some cmdb ∧ lenBytes t (t.minTotal + p.length) = some lenb ∧
      joined t lenb cmdb p = f := by
  simp only [encodeType_eq, Option.bind_eq_some_iff, Option.map_eq_some_iff, exists_and_left]

theorem encodeType_isSome {t : FrameType} {c : Option Nat} {p : List Byte} :
    (encodeType t c p).isSome = true ↔ CmdFits t c ∧ TotalFits t (t.minTotal + p.length) := by
  rw [encodeType_eq, ← cmdBytes_isSome, ← lenBytes_isSome]
  cases cmdBytes t c <;> simp

theorem length_bytesToCk {t : FrameType} {lenb cmdb : List Byte} (hlen : lenb.length = t.lfW)
    (hcmd : cmdb.length = t.cmdW) (p : List Byte) : (bytesToCk t lenb cmdb p).length = payOff t + p.length := by
  simp only [bytesToCk, List.length_append, hlen, hcmd, payOff, cmdOff]
  omega

theorem length_joined {t : FrameType} {lenb cmdb : List Byte} (hlen : lenb.length = t.lfW)
    (hcmd : cmdb.length = t.cmdW) (p : List Byte) : (joined t lenb cmdb p).length = t.minTotal + p.length := by
  simp only [joined, List.length_append, length_bytesToCk hlen hcmd, ckField_length, payOff, cmdOff, FrameType.minTotal]
  omega

/-! ## The wire layouts (R85 to R87) -/

theorem cmdBytes_of_fits {t : FrameType} {v : Nat} (hw : t.cmdW ≠ 0) (hv : v < 2 ^ (8 * t.cmdW)) :
    cmdBytes t (some v) = some (bytesOf t.cmdEnd t.cmdW v) := if_pos ⟨hw, hv⟩

theorem lenBytes_of_field {t : FrameType} {w base n v : Nat} {e : Endian} (hm : t.lenMode = .field w e base)
    (hn : n = v + base) (hv : v < 2 ^ (8 * w)) : lenBytes t n = some (bytesOf e w v) := by
  subst hn
  simp [lenBytes, hm, hv]

theorem bytesOf_one (e : Endian) (v : Nat) : bytesOf e 1 v = [BitVec.ofNat 8 v] := by
  cases e <;> simp [bytesOf, bytesLE, ofNat_mod_256]

theorem bytesLE_two (v : Nat) : bytesLE 2 v = [BitVec.ofNat 8 v, BitVec.ofNat 8 (v / 256)] := by
  simp [bytesLE, ofNat_mod_256]

/-- Two bytes as a number written low byte first are the two bytes. -/
theorem bytesLE_two_pair (lo hi : Byte) : bytesLE 2 (lo.toNat + 256 * hi.toNat) = [lo, hi] := by
  have hlo := lo.isLt
  have hdiv : (lo.toNat + 256 * hi.toNat) / 256 = hi.toNat := by omega
  have hmod : (lo.toNat + 256 * hi.toNat) % 256 = lo.toNat := by omega
  rw [bytesLE_two, hdiv, ← ofNat_mod_256, hmod]
  simp

/-- ENCODE for shape P1 (R85). -/
theorem encodeType_p1 (hs : List (Option Nat × List Item)) (cmd : Byte) {p : List Byte} (hp : p.length ≤ 253) :
    encodeType (p1Type hs) (some cmd.toNat) p = some (wireP1 cmd p) := by
  have hlen : lenBytes (p1Type hs) ((p1Type hs).minTotal + p.length) = some (bytesOf .le 1 (p.length + 2)) :=
    lenBytes_of_field rfl (Nat.add_comm 7 p.length) (by omega)
  refine encodeType_eq_some.mpr ⟨_, _, cmdBytes_of_fits one_ne_zero cmd.isLt, hlen, ?_⟩
  simp [joined, bytesToCk, p1Type, bytesOf_one, ckField, ckValue, sum8_eq_ofNat, wireP1_eq]

/-- ENCODE for shape P2 (R86). -/
theorem encodeType_p2 (hs : List (Option Nat × List Item)) {hdr tail p : List Byte} {c : Nat} (hh : hdr.length = 4)
    (ht : tail.length = 4) (hc : c < 65536) (hp : p.length ≤ 65533) :
    encodeType (p2Type hdr tail hs) (some c) p = some (wireP2 hdr c p tail) := by
  have hsize : (p2Type hdr tail hs).minTotal + p.length = p.length + 2 + 10 := by
    simp only [FrameType.minTotal, FrameType.lfW, FrameType.ckW, p2Type, hh, ht]
    omega
  refine encodeType_eq_some.mpr
    ⟨_, _, cmdBytes_of_fits two_ne_zero hc, lenBytes_of_field rfl hsize (by omega), ?_⟩
  simp [joined, bytesToCk, p2Type, bytesOf, bytesLE_two, ckField, ckValue, wireP2_eq]

/-- ENCODE for shape P3, with the command's bytes given: the body is what follows the first byte (R87). -/
theorem encodeType_p3 (hs : List (Option Nat × List Item)) {b0 : Byte} {hdr cmdb p : List Byte} {w : Nat} {e : Endian}
    {c : Option Nat} (hc : cmdBytes (p3Type (b0 :: hdr) w e hs) c = some cmdb)
    (hbody : (hdr ++ (cmdb ++ p)).length = 7) :
    encodeType (p3Type (b0 :: hdr) w e hs) c p = some (wireP3 b0 (hdr ++ (cmdb ++ p))) := by
  have hw : cmdb.length = w := length_of_cmdBytes hc
  refine encodeType_eq_some.mpr ⟨cmdb, [], hc, if_pos ?_, ?_⟩
  · simp only [List.length_append] at hbody
    simp only [FrameType.minTotal, FrameType.lfW, FrameType.ckW, p3Type, List.length_cons, List.length_nil]
    omega
  · simp [joined, bytesToCk, ckField, ckValue, p3Type, neg8_eq_neg_sum8, sum8_eq_ofNat, wireP3_eq]

/-! ## The frame taken apart again (R275) -/

/-- A guarded read of a part that stands behind `off` bytes and has `n`. -/
theorem memRead_of_prefix {l a b : List Byte} {off n : Nat} (h : a ++ b <+: l) (ha : a.length = off)
    (hb : b.length = n) : memRead l off n = some b := by
  obtain ⟨c, rfl⟩ := h
  subst ha hb
  rw [memRead_eq_some (by simp)]
  simp

/-- The read of a frame's command field gives the command it was written for (R91). -/
theorem cmdOf_of_cmdBytes {t : FrameType} {c : Option Nat} {cmdb l : List Byte} (hc : cmdBytes t c = some cmdb)
    (hread : memRead l (cmdOff t) t.cmdW = some cmdb) : cmdOf t l = c := by
  cases c with
  | none =>
    have hfits : CmdFits t none := cmdBytes_isSome.mp (Option.isSome_of_eq_some hc)
    exact cmdOf_of_cmdW_eq_zero hfits l
  | some v =>
    simp only [cmdBytes, Option.ite_none_right_eq_some, Option.some.injEq] at hc
    obtain ⟨⟨hw, hv⟩, rfl⟩ := hc
    rw [Nat.pow_mul] at hv
    rw [cmdOf, if_neg hw, hread, Option.map_some, uint_bytesOf _ _ _ hv]

/-- The read of a frame's length field gives the total it was written for (R83, R90). -/
theorem totalOf_of_lenBytes {t : FrameType} {n : Nat} {lenb l : List Byte} (hl : lenBytes t n = some lenb)
    (hread : memRead l t.hdr.length t.lfW = some lenb) : totalOf t l = some n := by
  cases hm : t.lenMode with
  | fixed k =>
    simp only [lenBytes, hm, Option.ite_none_right_eq_some, Option.some.injEq] at hl
    simp [totalOf, hm, hl.1]
  | field w e base =>
    simp only [lenBytes, hm, Option.ite_none_right_eq_some, Option.some.injEq] at hl
    obtain ⟨⟨hbase, hfit⟩, rfl⟩ := hl
    rw [Nat.pow_mul] at hfit
    simp only [FrameType.lfW, hm] at hread
    simp only [totalOf, lengthField, hm, hread, Option.map_some, uint_bytesOf _ _ _ hfit, Nat.sub_add_cancel hbase]

/-- A frame whose checksum field is the function of the span before it passes check 3. -/
theorem checkSum_of_reads {t : FrameType} {l span : List Byte} {n : Nat}
    (hspan : memRead l t.ckStart (ckOff t n - t.ckStart) = some span)
    (hck : memRead l (ckOff t n) t.ckW = some (ckValue t.ckFn span).toList) : checkSum t l n = true := by
  by_cases hfn : t.ckFn = .none
  case pos => exact checkSum_of_none hfn l n
  case neg =>
    rw [ckW_of_ne_none hfn] at hck
    simp only [checkSum, hspan, hck, beq_self_eq_true]

/-- Among headers with different first bytes, a byte finds the type whose header it begins (R10, R161). -/
theorem findType_of_getElem? {b : Byte} {n i : Nat} {ts : List FrameType} {t : FrameType}
    (hn : (ts.map fun t => t.hdr.head?).Nodup) (ht : ts[i]? = some t) (hb : t.hdr.head? = some b) :
    findType b n ts = some (n + i, t) := by
  induction ts generalizing n i with
  | nil => cases ht
  | cons u ts ih =>
    rw [List.map_cons, List.nodup_cons] at hn
    obtain ⟨hfresh, hn⟩ := hn
    cases i with
    | zero =>
      obtain rfl : u = t := by simpa using ht
      rw [findType, if_pos hb, Nat.add_zero]
    | succ i =>
      have ht : ts[i]? = some t := by simpa using ht
      have hne : u.hdr.head? ≠ some b := fun hu =>
        hfresh (List.mem_map.mpr ⟨t, List.mem_of_getElem? ht, hb.trans hu.symm⟩)
      rw [findType, if_neg hne, ih hn ht, Nat.add_right_comm, Nat.add_assoc]

/-- A string that passes check 1 for a type of the profile has that type. -/
theorem ftype_of_checkHeader (a : Admitted) {i : Nat} {t : FrameType} {l : List Byte} (ht : a.raw.types[i]? = some t)
    (h : checkHeader t l = true) : ftype a.raw l = some (i, t) := by
  obtain ⟨hpos, _⟩ := FrameType.ok_bounds (Admitted.type_ok a (List.mem_of_getElem? ht))
  obtain ⟨b, hdr, hh⟩ := List.exists_cons_of_length_pos hpos
  obtain ⟨r, rfl⟩ : t.hdr <+: l := checkHeader_eq_true.mp h ▸ List.take_prefix t.hdr.length l
  have hfind := findType_of_getElem? (n := 0) (Admitted.first_bytes_nodup a) ht (b := b) (by rw [hh]; rfl)
  rw [Nat.zero_add] at hfind
  rw [hh, List.cons_append]
  exact hfind

/-- The parts of a frame of `n` bytes stand where the field table puts them (R82, R84). -/
theorem reads_of_joined {t : FrameType} {lenb cmdb p l : List Byte} {n : Nat} (hlen : lenb.length = t.lfW)
    (hcmd : cmdb.length = t.cmdW) (hl : l = joined t lenb cmdb p) (hn : n = t.minTotal + p.length) :
    memRead l 0 t.hdr.length = some t.hdr ∧ memRead l t.hdr.length t.lfW = some lenb ∧
      memRead l (cmdOff t) t.cmdW = some cmdb ∧ memRead l (payOff t) (payLen t n) = some p ∧
      memRead l (ckOff t n) t.ckW = some (ckField t (bytesToCk t lenb cmdb p)) ∧
      memRead l (tailOff t n) t.tail.length = some t.tail := by
  have hbefore := length_bytesToCk hlen hcmd p
  have hckb := ckField_length t (bytesToCk t lenb cmdb p)
  have hpay : payLen t n = p.length := by rw [payLen_eq, hn, Nat.add_sub_cancel_left]
  have htail : tailOff t n = payOff t + p.length + t.ckW := by
    rw [tailOff, hn]
    simp only [FrameType.minTotal, payOff, cmdOff]
    omega
  have hck : ckOff t n = payOff t + p.length := by rw [ckOff, htail, Nat.add_sub_cancel]
  have htoTail : bytesToCk t lenb cmdb p ++ ckField t (bytesToCk t lenb cmdb p) ++ t.tail <+: l := by rw [hl, joined]
  have htoCk := (List.prefix_append _ _).trans htoTail
  have htoPay : t.hdr ++ lenb ++ cmdb ++ p <+: l := by
    rw [List.append_assoc _ cmdb p]
    exact (List.prefix_append _ _).trans htoCk
  have htoCmd := (List.prefix_append _ _).trans htoPay
  have htoLen := (List.prefix_append _ _).trans htoCmd
  have htoHdr := (List.prefix_append _ _).trans htoLen
  refine ⟨memRead_of_prefix (a := []) htoHdr rfl rfl, memRead_of_prefix htoLen rfl hlen,
    memRead_of_prefix htoCmd ?_ hcmd, memRead_of_prefix htoPay ?_ hpay.symm,
    memRead_of_prefix htoCk (hbefore.trans hck.symm) hckb, memRead_of_prefix htoTail ?_ rfl⟩
  · rw [List.length_append, hlen, cmdOff]
  · rw [List.length_append, List.length_append, hlen, hcmd, payOff, cmdOff]
  · rw [List.length_append, hbefore, hckb, htail]

/-- What ENCODE builds has the type's header in front, a known length, passes every check, and its command and payload
read back (R84, R91, R190, R211). -/
theorem decodes_of_encodeType {t : FrameType} {bm : List (List Nat)} {c : Option Nat} {p f : List Byte}
    (ok : t.ok bm = true) (h : encodeType t c p = some f) :
    totalOf t f = some f.length ∧ frameCause t f f.length = none ∧ cmdOf t f = c ∧ payloadOf t f f.length = p := by
  obtain ⟨cmdb, lenb, hc, hl, hf⟩ := encodeType_eq_some.mp h
  have hlen := length_of_lenBytes hl
  have hcmd := length_of_cmdBytes hc
  have hn : f.length = t.minTotal + p.length := by rw [← hf, length_joined hlen hcmd]
  obtain ⟨rhdr, rlen, rcmd, rpay, rck, rtail⟩ := reads_of_joined hlen hcmd hf.symm hn
  rw [← hn] at hl
  refine ⟨totalOf_of_lenBytes hl rlen, frameCause_eq_none.mpr ⟨?header, ?minimum, ?trailer, ?checksum⟩,
    cmdOf_of_cmdBytes hc rcmd, ?payload⟩
  case header => rw [checkHeader, rhdr, beq_self_eq_true]
  case minimum => exact checkLength_eq_true.mpr (by omega)
  case trailer => rw [checkTail, rtail, beq_self_eq_true, Bool.or_true]
  case payload => rw [payloadOf, rpay, Option.getD_some]
  case checksum =>
    have hbefore := length_bytesToCk hlen hcmd p
    have hck : ckOff t f.length = (bytesToCk t lenb cmdb p).length := by
      rw [hbefore, ckOff, tailOff, hn]
      simp only [FrameType.minTotal, payOff, cmdOff]
      omega
    obtain ⟨_, _, _, _, _, hstart⟩ := FrameType.ok_bounds ok
    have hstart : t.ckStart ≤ (bytesToCk t lenb cmdb p).length := by
      rw [hbefore, payOff, cmdOff]
      omega
    refine checkSum_of_reads (span := (bytesToCk t lenb cmdb p).drop t.ckStart) ?_ rck
    refine memRead_of_prefix (a := (bytesToCk t lenb cmdb p).take t.ckStart) ?_ (List.length_take_of_le hstart) ?_
    · rw [List.take_append_drop, ← hf, joined, List.append_assoc]
      exact List.prefix_append _ _
    · rw [List.length_drop, hck]

theorem encodeRequest_eq_some {prof : Profile} {i : Nat} {c : Option Nat} {p f : List Byte} :
    encodeRequest prof i c p = some f ↔ ∃ t, prof.types[i]? = some t ∧ encodeType t c p = some f := by
  simp only [encodeRequest, Option.bind_eq_some_iff]

/-- What ENCODE builds is a valid frame, and taken apart it gives what it was built from (R275). -/
theorem validFrame_of_encodeType {s : State} {i : Nat} {t : FrameType} {c : Option Nat} {p f : List Byte}
    (ht : s.prof.types[i]? = some t) (h : encodeType t c p = some f)
    (hcap : withinCap s.prof.bufCap f.length = true) : ValidFrame s f ∧
      (s.gathered f).front = some { t := i, ty := t, total := f.length, cmd := c, payload := p } := by
  obtain ⟨htotal, hcause, hcmd, hpay⟩ :=
    decodes_of_encodeType (Admitted.type_ok s.profile (List.mem_of_getElem? ht)) h
  obtain ⟨hheader, _⟩ := frameCause_eq_none.mp hcause
  have htype : ftype s.prof f = some (i, t) := ftype_of_checkHeader s.profile ht hheader
  have hready : (s.gathered f).ready = true :=
    (s.gathered_ready f).trans ((readyBuf_of_ftype htype).mpr ⟨_, htotal, .inr le_rfl⟩)
  have haccept : rejectCause s.prof f = none := by rw [rejectCause_of_total htype htotal, if_pos hcap, hcause]
  refine ⟨⟨valid_eq_true.mpr ⟨hready, ?_⟩, total_eq_some.mpr ⟨i, t, htype, htotal⟩⟩, ?_⟩
  · rw [← State.gathered, State.gathered_prof, State.gathered_buf, haccept]
  · simp [State.front, htype, htotal, frontOf, hcmd, hpay]

/-! ## Running ENCODE and XMIT by themselves (R274) -/

theorem exec_encodeFrame_of_some {s : State} {t : Nat} {c : Option Nat} {p f : List Byte}
    (h : encodeRequest s.prof t c p = some f) : exec (.encodeFrame t c p) s = .next { s with result := .bytes f } := by
  simp only [exec, execEncodeFrame, h, State.showBytes]

theorem exec_encodeFrame_of_none {s : State} {t : Nat} {c : Option Nat} {p : List Byte}
    (h : encodeRequest s.prof t c p = none) : exec (.encodeFrame t c p) s = .refused .encodeUndefined := by
  simp only [exec, execEncodeFrame, h]

/-- What is written and flushed goes out behind what was written before (R56, R274). -/
theorem txFlush_txWrite (s : State) (f : List Byte) : (s.txWrite f).txFlush =
    { s with txPending := [], txOut := s.txOut ++ s.txPending ++ f, trace := s.trace ++ [.tx f, .flush] } := by
  simp only [State.txFlush, State.txWrite, List.append_assoc, List.singleton_append]

theorem exec_xmit_of_some {s : State} {t : Nat} {c : Option Nat} {p f : List Byte}
    (h : encodeRequest s.prof t c p = some f) : exec (.xmit t c p) s = .next (s.txWrite f).txFlush := by
  simp only [exec, execXmit, h]

theorem exec_xmit_of_none {s : State} {t : Nat} {c : Option Nat} {p : List Byte}
    (h : encodeRequest s.prof t c p = none) : exec (.xmit t c p) s = .refused .encodeUndefined := by
  simp only [exec, execXmit, h]

/-! ## The obligations -/

/-- Settles O38: what ENCODE builds is a valid frame, and a valid frame in front of no noise passes the pipeline. -/
theorem roundTrip : Obligations.RoundTrip := by
  intro s t c p f hb hfail hhf hmem hq hfut hf hcap
  obtain ⟨ty, hty, hf⟩ := encodeRequest_eq_some.mp hf
  obtain ⟨hvalid, hfront⟩ := validFrame_of_encodeType hty hf hcap
  obtain ⟨fr, hfr, hpoll⟩ := resynchronization s [] f hb hfail hhf hmem hq hfut (by simp) hvalid
  obtain rfl := Option.some.inj (hfront.symm.trans hfr)
  exact ⟨ty, hty, hpoll⟩

/-- Settles O36: of the two fields that may not hold their value each gives its condition. -/
theorem encodeDefinedWithinPreconditions : Obligations.EncodeDefinedWithinPreconditions := by
  intro t c p
  refine ⟨?defined, fun f hf => ?length⟩
  case defined =>
    rw [encodeType_isSome, TotalFits]
    cases c <;> cases t.lenMode <;> rfl
  case length =>
    obtain ⟨cmdb, lenb, hc, hl, rfl⟩ := encodeType_eq_some.mp hf
    exact length_joined (length_of_lenBytes hl) (length_of_cmdBytes hc) p

/-- Settles O37. -/
theorem xmitWritesAndFlushes : Obligations.XmitWritesAndFlushes := by
  intro s t c p
  refine ⟨fun f hf => ⟨exec_encodeFrame_of_some hf, ?_⟩, fun hf => ⟨exec_encodeFrame_of_none hf, exec_xmit_of_none hf⟩⟩
  rw [exec_xmit_of_some hf, txFlush_txWrite]

/-- Settles O35: each layout is its fields joined; for P3 the four layouts differ in the bytes of the command only. -/
theorem encodeBuildsTheWireLayouts : Obligations.EncodeBuildsTheWireLayouts := by
  intro hdr payload tail body cmd b0 c hs e lo hi
  have hpair : lo.toNat + 256 * hi.toNat < 2 ^ (8 * 2) := by
    have := lo.isLt
    have := hi.isLt
    omega
  have hone : cmdBytes (p3Type (b0 :: hdr) 1 e hs) (some cmd.toNat) = some [cmd] := by
    rw [cmdBytes_of_fits one_ne_zero cmd.isLt]
    simp [p3Type, bytesOf_one]
  have hle : cmdBytes (p3Type (b0 :: hdr) 2 .le hs) (some (lo.toNat + 256 * hi.toNat)) = some [lo, hi] :=
    (cmdBytes_of_fits two_ne_zero hpair).trans (congrArg some (bytesLE_two_pair lo hi))
  have hbe : cmdBytes (p3Type (b0 :: hdr) 2 .be hs) (some (lo.toNat + 256 * hi.toNat)) = some [hi, lo] :=
    (cmdBytes_of_fits two_ne_zero hpair).trans (congrArg (some ·.reverse) (bytesLE_two_pair lo hi))
  exact ⟨encodeType_p1 hs cmd, encodeType_p2 hs, encodeType_p3 (hdr := []) (cmdb := []) hs rfl,
    encodeType_p3 (cmdb := []) hs rfl,
    encodeType_p3 hs hone, fun hlen => ⟨encodeType_p3 hs hle hlen, encodeType_p3 hs hbe (by simpa using hlen)⟩⟩

end Sys2Proof.Machine
end

section
/-! PROOF. The family 46_command_encoder, bit-packed configuration bytes: what replacing a bit range of a number leaves and
gives, and that a packed meaning decodes back (R273). -/

namespace Sys2Proof.Machine

open Sys2Proof.Config (Profile)

/-! ## Replacing a bit range (R12, R273) -/

/-- `n` with the field of `w` bits from bit `lo` on replaced by `x`. -/
def replaceField (n lo w x : Nat) : Nat := n - n / 2 ^ lo % 2 ^ w * 2 ^ lo + x * 2 ^ lo

/-- The number in its three parts: above the field, the field, below it. -/
theorem replaceField_eq (n lo w x : Nat) :
    replaceField n lo w x = 2 ^ lo * (2 ^ w * (n / 2 ^ (lo + w)) + x) + n % 2 ^ lo := by
  have hlow := Nat.div_add_mod n (2 ^ lo)
  have hhigh := Nat.div_add_mod (n / 2 ^ lo) (2 ^ w)
  rw [Nat.div_div_eq_div_mul, ← Nat.pow_add] at hhigh
  have hparts : n = 2 ^ lo * (2 ^ w * (n / 2 ^ (lo + w))) + n / 2 ^ lo % 2 ^ w * 2 ^ lo + n % 2 ^ lo := by
    rw [Nat.mul_comm (_ % _), ← Nat.mul_add, hhigh, hlow]
  rw [replaceField, Nat.mul_add, Nat.mul_comm x]
  omega

theorem replaceField_mod (n lo w x : Nat) : replaceField n lo w x % 2 ^ lo = n % 2 ^ lo := by
  rw [replaceField_eq, Nat.mul_add_mod, Nat.mod_mod]

theorem replaceField_div (n lo w x : Nat) :
    replaceField n lo w x / 2 ^ lo = 2 ^ w * (n / 2 ^ (lo + w)) + x := by
  rw [replaceField_eq, Nat.mul_add_div (Nat.two_pow_pos lo), Nat.div_eq_of_lt (Nat.mod_lt n (Nat.two_pow_pos lo)),
    Nat.add_zero]

section Fits

variable {x w : Nat} (hx : x < 2 ^ w) (n lo : Nat)
include hx

theorem replaceField_field : replaceField n lo w x / 2 ^ lo % 2 ^ w = x := by
  rw [replaceField_div, Nat.mul_add_mod, Nat.mod_eq_of_lt hx]

theorem replaceField_above : replaceField n lo w x / 2 ^ (lo + w) = n / 2 ^ (lo + w) := by
  rw [Nat.pow_add, ← Nat.div_div_eq_div_mul, replaceField_div, Nat.mul_add_div (Nat.two_pow_pos w),
    Nat.div_eq_of_lt hx, Nat.add_zero, Nat.pow_add]

/-- The bits outside the field stay. -/
theorem testBit_replaceField {j : Nat} (hj : j < lo ∨ lo + w ≤ j) :
    (replaceField n lo w x).testBit j = n.testBit j := by
  rcases hj with hj | hj
  case inl =>
    have hbelow := congrArg (·.testBit j) (replaceField_mod n lo w x)
    simpa [Nat.testBit_mod_two_pow, hj] using hbelow
  case inr =>
    have habove := congrArg (·.testBit (j - (lo + w))) (replaceField_above hx n lo)
    simpa [Nat.testBit_div_two_pow, Nat.sub_add_cancel hj] using habove

/-- A field inside `k` bits leaves a number of `k` bits one. -/
theorem replaceField_lt {k : Nat} (hk : lo + w ≤ k) (hn : n < 2 ^ k) : replaceField n lo w x < 2 ^ k := by
  obtain ⟨d, rfl⟩ := Nat.exists_eq_add_of_le hk
  rw [Nat.pow_add, Nat.mul_comm, ← Nat.div_lt_iff_lt_mul (Nat.two_pow_pos _)] at hn ⊢
  rwa [replaceField_above hx]

end Fits

/-- What packing bits answers, as a replaced field (R273). -/
theorem packBits_eq_replaceField {prof : Profile} {hi lo m e : Nat} {b b' : Byte}
    (h : packBits prof hi lo m e b = some b') :
    ∃ table x, prof.bitmaps[m]? = some table ∧ table[x]? = some e ∧ hi ≤ 7 ∧ lo ≤ hi ∧ x < 2 ^ (hi - lo + 1) ∧
      b' = BitVec.ofNat 8 (replaceField b.toNat lo (hi - lo + 1) x) := by
  obtain ⟨table, x, ht, _, hok, hx, hb⟩ := packBits_eq_some h
  obtain ⟨hhi, hlo, hsize⟩ := recItemOk_bitfield.mp hok
  obtain ⟨hlt, he, _⟩ := List.idxOf?_eq_some_iff.mp hx
  rw [ht, Option.map_some, Option.some.injEq] at hsize
  exact ⟨table, x, ht, by simpa [List.getElem?_eq_getElem hlt] using he, hhi, hlo, hsize ▸ hlt, hb⟩

/-- The packed field decodes to the meaning (R227, R273). -/
theorem bitmapEntry_of_packBits {prof : Profile} {hi lo m e : Nat} {b b' : Byte}
    (h : packBits prof hi lo m e b = some b') : bitmapEntry prof m (bitRange b' hi lo) = some e := by
  obtain ⟨table, x, ht, he, hhi, hlo, hx, rfl⟩ := packBits_eq_replaceField h
  have hfits := replaceField_lt hx b.toNat lo (k := 8) (by omega) b.isLt
  have hfield : bitRange (BitVec.ofNat 8 (replaceField b.toNat lo (hi - lo + 1) x)) hi lo = x := by
    rw [bitRange, BitVec.toNat_ofNat, Nat.mod_eq_of_lt hfits, replaceField_field hx]
  rw [hfield, bitmapEntry, ht, Option.bind_some, he]

/-- The bits outside the packed field stay (R273). -/
theorem getLsbD_of_packBits {prof : Profile} {hi lo m e j : Nat} {b b' : Byte}
    (h : packBits prof hi lo m e b = some b') (hj : j < lo ∨ hi < j) : b'.getLsbD j = b.getLsbD j := by
  obtain ⟨table, x, _, _, hhi, hlo, hx, rfl⟩ := packBits_eq_replaceField h
  have hfits := replaceField_lt hx b.toNat lo (k := 8) (by omega) b.isLt
  rw [BitVec.getLsbD, BitVec.toNat_ofNat, Nat.mod_eq_of_lt hfits, testBit_replaceField hx _ _ (by omega), BitVec.getLsbD]

/-- Settles O41. -/
theorem packedBitsDecodeBack : Obligations.PackedBitsDecodeBack := by
  intro prof hi lo m e b b'
  refine ⟨fun h => ⟨bitmapEntry_of_packBits h, fun j hj => getLsbD_of_packBits h hj⟩, fun table ht => ⟨?packed, ?none⟩⟩
  case packed =>
    intro hok hn he
    simp only [packBits, ht, Option.bind_some, hok, hn, and_self, if_true, Option.isSome_map]
    exact List.isSome_idxOf?.mpr he
  case none =>
    intro hn
    simp only [packBits, ht, Option.bind_some, hn, and_false, if_false]

end Sys2Proof.Machine
end

section
/-! PROOF. The family 46_command_encoder, XCHG: the wait loop as looks, where it ends however bytes arrive (R279, R280),
what the end of an exchange writes (R282, R295), and its admission (R281). -/

namespace Sys2Proof.Machine

open Sys2Proof.Config (FrameType Admitted)

/-! ## Looks (R280) -/

/-- The state after `n` looks of the wait loop. -/
def State.looked (s : State) (n : Nat) : State := (exchangeLooks n s []).1

/-- The bytes of the reply read in `n` looks. -/
def State.replyRead (s : State) (n : Nat) : List Byte := (exchangeLooks n s []).2

theorem exchangeLooks_succ_last (n : Nat) (s : State) (r : List Byte) : exchangeLooks (n + 1) s r =
    exchangeLook (exchangeLooks n s r).1 (exchangeLooks n s r).2 := by
  induction n generalizing s r with
  | zero => rfl
  | succ n ih => rw [exchangeLooks, ih, exchangeLooks]

theorem State.look_succ (s : State) (n : Nat) :
    exchangeLook (s.looked n) (s.replyRead n) = (s.looked (n + 1), s.replyRead (n + 1)) :=
  (exchangeLooks_succ_last n s []).symm

section SameInput

variable {s u : State} (hq : u.q = s.q) (hf : u.future = s.future)
include hq hf

theorem arrive_of_same_input : u.arrive = { u with q := s.arrive.q, future := s.arrive.future } := by
  unfold State.arrive
  rw [hf]
  split <;> simp [← hq, ← hf]

theorem exchangeLook_of_same_input (r : List Byte) : exchangeLook u r =
    ({ u with q := (exchangeLook s r).1.q, future := (exchangeLook s r).1.future }, (exchangeLook s r).2) := by
  unfold exchangeLook
  rw [arrive_of_same_input hq hf]
  cases h : s.arrive.q <;> simp [h]

end SameInput

/-- Looks read and write the queue and the arrivals to come only, so they are the same in every state with these two. -/
theorem exchangeLooks_of_same_input {s u : State} (hq : u.q = s.q) (hf : u.future = s.future) (n : Nat)
    (r : List Byte) : exchangeLooks n u r =
      ({ u with q := (exchangeLooks n s r).1.q, future := (exchangeLooks n s r).1.future }, (exchangeLooks n s r).2) := by
  induction n generalizing s u r with
  | zero => simp [exchangeLooks, ← hq, ← hf]
  | succ n ih =>
    have hlook := exchangeLook_of_same_input hq hf r
    rw [exchangeLooks, exchangeLooks, ih (s := (exchangeLook s r).1) (by rw [hlook]) (by rw [hlook]), hlook]

theorem State.looked_of_same_input {s u : State} (hq : u.q = s.q) (hf : u.future = s.future) (n : Nat) :
    u.looked n = { u with q := (s.looked n).q, future := (s.looked n).future } :=
  congrArg Prod.fst (exchangeLooks_of_same_input hq hf n [])

theorem State.replyRead_of_same_input {s u : State} (hq : u.q = s.q) (hf : u.future = s.future) (n : Nat) :
    u.replyRead n = s.replyRead n :=
  congrArg (·.2) (exchangeLooks_of_same_input hq hf n [])

@[simp] theorem State.looked_prof (s : State) (n : Nat) : (s.looked n).prof = s.prof := by
  rw [State.looked_of_same_input (s := s) rfl rfl]
  rfl

/-- A look reads no byte or one. -/
theorem State.replyRead_succ (s : State) (n : Nat) :
    ((s.looked n).arrive.q = [] ∧ (s.replyRead (n + 1)).length = (s.replyRead n).length) ∨
    ∃ b q, (s.looked n).arrive.q = b :: q ∧ (s.replyRead (n + 1)).length = (s.replyRead n).length + 1 := by
  rcases exchangeLook_cases (s.looked n) (s.replyRead n) with ⟨hq, h⟩ | ⟨b, q, hq, h⟩ <;>
    rw [State.look_succ, Prod.mk.injEq] at h <;> obtain ⟨_, h⟩ := h
  · exact .inl ⟨hq, by rw [h]⟩
  · exact .inr ⟨b, q, hq, by rw [h, List.length_append, List.length_singleton]⟩

/-- In further looks the reply grows by at most one byte each. -/
theorem State.replyRead_add (s : State) (m k : Nat) : (s.replyRead m).length ≤ (s.replyRead (m + k)).length ∧
    (s.replyRead (m + k)).length ≤ (s.replyRead m).length + k := by
  induction k with
  | zero => simp
  | succ k ih =>
    rcases s.replyRead_succ (m + k) with ⟨_, h⟩ | ⟨_, _, _, h⟩ <;> rw [← Nat.add_assoc] <;> omega

theorem State.length_replyRead_le (s : State) (n : Nat) : (s.replyRead n).length ≤ n := by
  obtain ⟨_, h⟩ := s.replyRead_add 0 n
  rwa [Nat.zero_add, show s.replyRead 0 = [] from rfl, List.length_nil, Nat.zero_add] at h

theorem arrive_prof (s : State) : s.arrive.prof = s.prof := by
  rw [arrive_of_same_input (s := s) rfl rfl]
  rfl

/-! ## The wait loop (R279, R280) -/

/-- After `n` looks the reply is short and fewer than `XCHG_TIMEOUT` looks were empty. -/
def State.waits (s : State) (n : Nat) : Prop :=
  (s.replyRead n).length < s.prof.replyLen ∧ n < (s.replyRead n).length + s.prof.xchgTimeout

theorem replyComesAt_iff {s : State} {n : Nat} : ReplyComesAt s n ↔
    (∀ m, m < n → s.waits m) ∧ (s.replyRead n).length = s.prof.replyLen ∧
      n < (s.replyRead n).length + s.prof.xchgTimeout := by
  constructor
  case mp =>
    rintro ⟨hlen, hn, hbefore⟩
    change (s.replyRead n).length = _ at hlen
    refine ⟨fun m hm => ⟨hbefore m hm, ?_⟩, hlen, hlen ▸ hn⟩
    have := s.replyRead_add m (n - m)
    rw [Nat.add_sub_cancel' hm.le] at this
    omega
  case mpr =>
    rintro ⟨hbefore, hlen, hn⟩
    exact ⟨hlen, hlen ▸ hn, fun m hm => (hbefore m hm).1⟩

theorem abortsAt_iff {s : State} {n : Nat} : AbortsAt s n ↔
    (∀ m, m < n → s.waits m) ∧ (s.replyRead n).length < s.prof.replyLen ∧
      n = (s.replyRead n).length + s.prof.xchgTimeout := by
  constructor
  case mp =>
    rintro ⟨hlen, hn, hbefore⟩
    change (s.replyRead n).length < _ at hlen
    refine ⟨fun m hm => ⟨?_, hbefore m hm⟩, hlen, hn⟩
    have := s.replyRead_add m (n - m)
    rw [Nat.add_sub_cancel' hm.le] at this
    omega
  case mpr =>
    rintro ⟨hbefore, hlen, hn⟩
    exact ⟨hlen, hn, fun m hm => (hbefore m hm).2⟩

/-- The loop ends, with the reply or in ABORT, at the first look after which it need not wait (R279). -/
theorem exists_exchange_end (s : State) :
    ∃ n, n ≤ s.prof.replyLen + s.prof.xchgTimeout ∧ (ReplyComesAt s n ∨ AbortsAt s n) := by
  classical
  have hpos : 1 ≤ s.prof.xchgTimeout := Admitted.timeout_pos s.profile
  have hex : ∃ n, ¬ s.waits n := ⟨s.prof.replyLen + s.prof.xchgTimeout, fun h => by
    obtain ⟨hshort, htries⟩ := h
    omega⟩
  have hbefore : ∀ m, m < Nat.find hex → s.waits m := fun m hm => not_not.mp (Nat.find_min hex hm)
  have hend : ¬ s.waits (Nat.find hex) := Nat.find_spec hex
  generalize Nat.find hex = n at hbefore hend
  rw [State.waits, not_and_or, Nat.not_lt, Nat.not_lt] at hend
  cases n with
  | zero =>
    have hzero : (s.replyRead 0).length = 0 := rfl
    exact ⟨0, Nat.zero_le _, .inl (replyComesAt_iff.mpr ⟨hbefore, by omega, by omega⟩)⟩
  | succ n =>
    obtain ⟨hshort, htries⟩ := hbefore n n.lt_succ_self
    rcases s.replyRead_succ n with ⟨_, hread⟩ | ⟨_, _, _, hread⟩
    · exact ⟨n + 1, by omega, .inr (abortsAt_iff.mpr ⟨hbefore, by omega, by omega⟩)⟩
    · exact ⟨n + 1, by omega, .inl (replyComesAt_iff.mpr ⟨hbefore, by omega, by omega⟩)⟩

/-- While it waits, the loop makes its looks: `tries` is the number of looks less the bytes read. -/
theorem xchgWait_of_waits {s : State} {n : Nat} (fuel : Nat) (hw : ∀ m, m < n → s.waits m)
    (hn : n < (s.replyRead n).length + s.prof.xchgTimeout) :
    xchgWait (n + fuel) 0 [] s = xchgWait fuel (n - (s.replyRead n).length) (s.replyRead n) (s.looked n) := by
  induction n generalizing fuel with
  | zero => rw [Nat.zero_add]; rfl
  | succ n ih =>
    obtain ⟨hshort, htries⟩ := hw n n.lt_succ_self
    have hlen : (s.replyRead n).length < (s.looked n).prof.replyLen := by rwa [State.looked_prof]
    rw [Nat.add_right_comm, Nat.add_assoc, ih (fuel + 1) (fun m hm => hw m (by omega)) htries]
    have hle := s.length_replyRead_le n
    rcases s.replyRead_succ n with ⟨hq, hread⟩ | ⟨b, q, hq, hread⟩
    case inl =>
      rw [hread] at hn
      have hgoes : ¬ (s.looked n).arrive.prof.xchgTimeout ≤ n - (s.replyRead n).length + 1 := by
        rw [arrive_prof, State.looked_prof]
        omega
      rw [xchgWait_empty hlen hq, State.look_succ, if_neg hgoes, hread, Nat.succ_sub hle]
    case inr => rw [xchgWait_byte hlen hq, State.look_succ, hread, Nat.add_sub_add_right]

theorem exists_waitFuel_eq {s : State} {n : Nat} (h : n ≤ s.prof.replyLen + s.prof.xchgTimeout) :
    ∃ fuel, s.waitFuel = n + (fuel + 1) := by
  obtain ⟨fuel, hfuel⟩ := Nat.exists_eq_add_of_le h
  exact ⟨fuel, by rw [State.waitFuel, hfuel, Nat.add_assoc]⟩

theorem xchgWait_of_reply {s : State} {n : Nat} (h : ReplyComesAt s n) :
    xchgWait s.waitFuel 0 [] s = (s.looked n, some (s.replyRead n)) := by
  obtain ⟨hw, hlen, hn⟩ := replyComesAt_iff.mp h
  have hle := s.length_replyRead_le n
  obtain ⟨fuel, hfuel⟩ : ∃ fuel, s.waitFuel = n + (fuel + 1) := exists_waitFuel_eq (by omega)
  rw [hfuel, xchgWait_of_waits _ hw hn, xchgWait_done (by rw [State.looked_prof, hlen])]

/-- The look that is one too many finds no byte: had it found one, the bound would not be reached. -/
theorem xchgWait_of_abort {s : State} {n : Nat} (h : AbortsAt s n) :
    xchgWait s.waitFuel 0 [] s = (s.looked n, none) := by
  obtain ⟨hw, hlen, hn⟩ := abortsAt_iff.mp h
  have hpos : 1 ≤ s.prof.xchgTimeout := Admitted.timeout_pos s.profile
  cases n with
  | zero => omega
  | succ n =>
    obtain ⟨hshort, htries⟩ := hw n n.lt_succ_self
    rcases s.replyRead_succ n with ⟨hq, hread⟩ | ⟨_, _, _, hread⟩
    case inr => omega
    case inl =>
      obtain ⟨fuel, hfuel⟩ : ∃ fuel, s.waitFuel = n + (fuel + 1) := exists_waitFuel_eq (by omega)
      have hlast : (s.looked n).arrive.prof.xchgTimeout ≤ n - (s.replyRead n).length + 1 := by
        rw [arrive_prof, State.looked_prof]
        omega
      rw [hfuel, xchgWait_of_waits _ (fun m hm => hw m (by omega)) htries,
        xchgWait_empty (by rwa [State.looked_prof]) hq, if_pos hlast, State.look_succ]

/-! ## The end of an exchange (R280, R282, R295) -/

theorem decodeReply_of_no_type {s : State} {r : List Byte} (h : ftype s.prof r = none) : decodeReply r s =
    { s with trace := s.trace ++ [.warn (.malformed .noType)], warn := true } := by
  simp only [decodeReply, h]
  rfl

theorem decodeReply_of_cause {s : State} {r : List Byte} {i : Nat} {t : FrameType} {cause : Cause}
    (ht : ftype s.prof r = some (i, t)) (hc : frameCause t r s.prof.replyLen = some cause) : decodeReply r s =
    { s with trace := s.trace ++ [.warn (.malformed cause)], warn := true } := by
  simp only [decodeReply, ht, hc]
  rfl

theorem decodeReply_of_pass {s : State} {r : List Byte} {i : Nat} {t : FrameType}
    (ht : ftype s.prof r = some (i, t)) (hc : frameCause t r s.prof.replyLen = none) : decodeReply r s =
    { s with trace := s.trace ++ frameEvents s.prof (frontOf i t r s.prof.replyLen), warn := false } := by
  simp only [decodeReply, ht, hc]
  generalize frontOf i t r s.prof.replyLen = fr
  cases hh : handlerOf fr.ty fr.cmd with
  | none =>
    rw [frameEvents_of_no_handler hh]
    simp [State.emit, State.setWarn]
  | some items =>
    rw [frameEvents_of_handler hh]
    simp [State.emit, State.emitAll, State.setWarn, State.prof]

/-- The end of an exchange commutes with the decoding of the reply. -/
theorem endExchange_decodeReply (r : List Byte) (s : State) :
    (decodeReply r s).endExchange = decodeReply r s.endExchange := by
  cases ht : ftype s.prof r with
  | none =>
    rw [decodeReply_of_no_type ht, decodeReply_of_no_type (s := s.endExchange) ht]
    rfl
  | some x =>
    cases hc : frameCause x.2 r s.prof.replyLen with
    | some cause =>
      rw [decodeReply_of_cause ht hc, decodeReply_of_cause (s := s.endExchange) ht hc]
      rfl
    | none =>
      rw [decodeReply_of_pass ht hc, decodeReply_of_pass (s := s.endExchange) ht hc]
      rfl

/-- The state with the request `f` sent and `n` looks made. -/
def State.afterLooks (s : State) (f : List Byte) (n : Nat) : State :=
  { s with q := (s.looked n).q, future := (s.looked n).future, txPending := [], txOut := s.txOut ++ s.txPending ++ f,
           trace := s.trace ++ [.tx f, .flush], pending := none }

/-- The state in which an exchange begins to wait: the request is written and flushed, and is pending. -/
def State.sent (s : State) (c : Option Nat) (p f : List Byte) : State := ((s.beginExchange c p).txWrite f).txFlush

section Exchange

variable {s : State} {n : Nat} (c : Option Nat) (p f : List Byte)

@[simp] theorem State.sent_prof : (s.sent c p f).prof = s.prof := rfl

/-- Sending the request writes neither the queue nor the arrivals to come, so the looks are those of the state before. -/
@[simp] theorem State.sent_replyRead : (s.sent c p f).replyRead n = s.replyRead n :=
  State.replyRead_of_same_input (s := s) (u := s.sent c p f) rfl rfl n

theorem endExchange_looked_sent (hx : s.xchg = .idle) : ((s.sent c p f).looked n).endExchange = s.afterLooks f n := by
  rw [State.looked_of_same_input (s := s) (u := s.sent c p f) rfl rfl, State.sent, txFlush_txWrite, State.endExchange,
    ← hx]
  rfl

/-- An exchange whose wait ends in ABORT (R280, R295). -/
theorem doXchg_of_abort (hx : s.xchg = .idle) (h : AbortsAt s n) : doXchg c p f s =
    { s.afterLooks f n with trace := s.trace ++ [.tx f, .flush] ++ [.warn .timeout], warn := true } := by
  have hsent : AbortsAt (s.sent c p f) n := by
    rw [abortsAt_iff] at h ⊢
    simpa only [State.waits, State.sent_replyRead, State.sent_prof] using h
  have hwait := xchgWait_of_abort hsent
  have hend := endExchange_looked_sent (n := n) c p f hx
  rw [State.sent] at hwait hend
  calc doXchg c p f s
    _ = raise .exchangeTimeout (((s.beginExchange c p).txWrite f).txFlush.looked n) := by simp only [doXchg, hwait]
    _ = ((((s.beginExchange c p).txWrite f).txFlush.looked n).endExchange.emit (.warn .timeout)).setWarn true := rfl
    _ = ((s.afterLooks f n).emit (.warn .timeout)).setWarn true := by rw [hend]

/-- An exchange whose wait ends with the reply (R280, R282). -/
theorem doXchg_of_reply (hx : s.xchg = .idle) (h : ReplyComesAt s n) :
    doXchg c p f s = decodeReply (s.replyRead n) (s.afterLooks f n) := by
  have hsent : ReplyComesAt (s.sent c p f) n := by
    rw [replyComesAt_iff] at h ⊢
    simpa only [State.waits, State.sent_replyRead, State.sent_prof] using h
  have hwait := xchgWait_of_reply hsent
  have hend := endExchange_looked_sent (n := n) c p f hx
  rw [State.sent_replyRead] at hwait
  rw [State.sent] at hwait hend
  rw [← hend, ← endExchange_decodeReply]
  simp only [doXchg, hwait]

end Exchange

/-! ## Admission (R281) -/

theorem xchgAdmitted_eq_true {s : State} :
    s.xchgAdmitted = true ↔ s.xchg = .idle ∧ s.hf = false ∧ s.len = 0 := by
  simp [State.xchgAdmitted, and_assoc]

theorem exec_xchg_of_admitted {s : State} {t : Nat} {c : Option Nat} {p f : List Byte} (ha : s.xchgAdmitted = true)
    (hf : encodeRequest s.prof t c p = some f) : exec (.xchg t c p) s = .next (doXchg c p f s) := by
  simp only [exec, execXchg, ha, if_true, hf]

theorem exec_xchg_of_not_admitted {s : State} (ha : s.xchgAdmitted = false) (t : Nat) (c : Option Nat) (p : List Byte) :
    exec (.xchg t c p) s = .refused .xchgNotAdmitted := by
  simp only [exec, execXchg, ha, Bool.false_eq_true, if_false]

theorem exec_xchg_of_undefined {s : State} {t : Nat} {c : Option Nat} {p : List Byte} (ha : s.xchgAdmitted = true)
    (hf : encodeRequest s.prof t c p = none) : exec (.xchg t c p) s = .refused .encodeUndefined := by
  simp only [exec, execXchg, ha, if_true, hf]

/-! ## Looks with nothing still to arrive -/

theorem exchangeLooks_of_future_nil {s : State} (hf : s.future = []) (n : Nat) (r : List Byte) :
    exchangeLooks n s r = ({ s with q := s.q.drop n }, r ++ s.q.take n) := by
  induction n generalizing s r with
  | zero => simp [exchangeLooks]
  | succ n ih =>
    rcases exchangeLook_cases s r with ⟨hq, h⟩ | ⟨b, q, hq, h⟩ <;> rw [arrive_of_future_nil hf] at hq h
    · rw [exchangeLooks, h, ih hf]
      simp [hq]
    · rw [exchangeLooks, h, ih (s := { s with q := q }) hf]
      simp [hq]

/-! ## The obligations -/

/-- Settles O59: the loop ends where it first need not wait, and each end writes its own result. -/
theorem exchangeWaitsForItsReplyOrAborts : Obligations.ExchangeWaitsForItsReplyOrAborts := by
  intro s t c p f
  refine ⟨exists_exchange_end s, fun ha hf n => ?_⟩
  obtain ⟨hx, _⟩ := xchgAdmitted_eq_true.mp ha
  rw [exec_xchg_of_admitted ha hf]
  refine ⟨fun h => ?abort, fun h => ⟨fun ht => ?noType, fun i ty ht => ⟨fun cause hc => ?cause, fun hc => ?pass⟩⟩⟩
  case abort =>
    rw [doXchg_of_abort c p f hx h, List.append_assoc]
    rfl
  case noType =>
    rw [doXchg_of_reply c p f hx h, decodeReply_of_no_type (s := s.afterLooks f n) (r := s.replyRead n) ht]
    simp [State.afterLooks, State.looked]
  case cause =>
    rw [doXchg_of_reply c p f hx h, decodeReply_of_cause (s := s.afterLooks f n) (r := s.replyRead n) ht hc]
    simp [State.afterLooks, State.looked]
  case pass =>
    rw [doXchg_of_reply c p f hx h, decodeReply_of_pass (s := s.afterLooks f n) (r := s.replyRead n) ht hc]
    rfl

/-- Settles O42: as many looks as the reply has bytes read exactly these. -/
theorem exchangeDecodesItsReply : Obligations.ExchangeDecodesItsReply := by
  intro s t c p f r rest ha hf hfut hq hlen
  have hlooks : exchangeLooks r.length s [] = ({ s with q := rest }, r) := by
    rw [exchangeLooks_of_future_nil hfut, hq]
    simp
  have hcomes : ReplyComesAt s r.length := by
    have hpos : 1 ≤ s.prof.xchgTimeout := Admitted.timeout_pos s.profile
    refine ⟨by rw [hlooks, hlen], by omega, fun m hm => ?_⟩
    rw [exchangeLooks_of_future_nil hfut, List.nil_append, List.length_take]
    omega
  obtain ⟨_, hend⟩ := exchangeWaitsForItsReplyOrAborts s t c p f
  obtain ⟨_, hreply⟩ := hend ha hf r.length
  rw [hlooks] at hreply
  exact hreply hcomes

/-- Settles O43: the bytes there are read, and then every look is empty. -/
theorem exchangeTimesOut : Obligations.ExchangeTimesOut := by
  intro s t c p f ha hf hfut hshort
  have hlooks : exchangeLooks (s.q.length + s.prof.xchgTimeout) s [] = ({ s with q := [] }, s.q) := by
    rw [exchangeLooks_of_future_nil hfut]
    simp
  have haborts : AbortsAt s (s.q.length + s.prof.xchgTimeout) := by
    refine ⟨by rwa [hlooks], by rw [hlooks], fun m hm => ?_⟩
    have hpos : 1 ≤ s.prof.xchgTimeout := Admitted.timeout_pos s.profile
    rw [exchangeLooks_of_future_nil hfut, List.nil_append, List.length_take]
    omega
  obtain ⟨_, hend⟩ := exchangeWaitsForItsReplyOrAborts s t c p f
  obtain ⟨habort, _⟩ := hend ha hf (s.q.length + s.prof.xchgTimeout)
  rw [hlooks] at habort
  exact habort haborts

/-- Settles O44: whichever way the wait ends, only the trace and `warn` tell. -/
theorem exchangeAlwaysEnds : Obligations.ExchangeAlwaysEnds := by
  intro s t c p
  refine ⟨fun h => ?refused, fun hx hhf hlen f hf => ?ends, fun hx hhf hlen hf => ?undefined⟩
  case refused =>
    refine exec_xchg_of_not_admitted (Bool.eq_false_iff.mpr fun ha => ?_) t c p
    obtain ⟨hx, hhf, hlen⟩ := xchgAdmitted_eq_true.mp ha
    simp [hx, hhf, hlen] at h
  case undefined => exact exec_xchg_of_undefined (xchgAdmitted_eq_true.mpr ⟨hx, hhf, hlen⟩) hf
  case ends =>
    have hres : ∃ n es w, doXchg c p f s =
        { s.afterLooks f n with trace := s.trace ++ [.tx f, .flush] ++ es, warn := w } := by
      obtain ⟨n, _, h | h⟩ := exists_exchange_end s
      case inl =>
        rcases decodeReply_cases (s.replyRead n) (s.afterLooks f n) with ⟨c', e⟩ | ⟨i, ty, _, _, e⟩ <;>
          exact ⟨n, _, _, (doXchg_of_reply c p f hx h).trans e⟩
      case inr => exact ⟨n, _, _, doXchg_of_abort c p f hx h⟩
    have hstream := doXchg_stream c p f s
    obtain ⟨n, es, w, hres⟩ := hres
    refine ⟨doXchg c p f s, exec_xchg_of_admitted (xchgAdmitted_eq_true.mpr ⟨hx, hhf, hlen⟩) hf, ?_⟩
    rw [hres] at hstream ⊢
    exact ⟨hx, rfl, rfl, hhf, rfl, rfl, rfl, List.prefix_append _ _, hstream⟩

end Sys2Proof.Machine
end

section
/-! PROOF. The family 70_reset_and_hazards: the host operations that write or leave the flags, each as its whole next
state (R330, R331). -/

namespace Sys2Proof.Machine

/-- RESET clears the buffer, lowers the three flags and ends the exchange; the Byte Source is not touched (R332). -/
theorem exec_reset (s : State) : exec .reset s =
    .next { s with mem := [], hf := false, warn := false, failed := false, xchg := .idle, pending := none } := rfl

/-- MARK_FAILED is condition 6, setup failure (R296, R331). -/
theorem exec_markFailed (s : State) : exec .markFailed s = .next { s with failed := true } :=
  congrArg Host.Outcome.next (raise_setupFailure s)

/-- Settles O45. -/
theorem resetWritesTheResetValues : Obligations.ResetWritesTheResetValues := exec_reset

/-- Settles O46: the meanings of the four codes, and from who writes `failed` that RESET alone clears it. -/
theorem nopMarkFailedAndReservedCodes : Obligations.NopMarkFailedAndReservedCodes := by
  intro s
  refine ⟨?nop, exec_markFailed s, ?reserved110, ?reserved111, fun i t h hset hcleared => ?clears⟩
  case nop => rfl
  case reserved110 => rfl
  case reserved111 => rfl
  case clears =>
    obtain ⟨_, hclear, _⟩ := failedSetAndClearedOnlyByHost i s t h
    exact hclear hset hcleared

end Sys2Proof.Machine
end
